-- ==== Sys2Proof/Word.lean ====
section
/-! DEFINITION. The words of DMCT: 16-bit registers, 20-bit transaction words, bytes of a byte-addressed mapping. -/

namespace Sys2Proof

/-- A 16-bit register value (00_scope.md R10). -/
abbrev Word := BitVec 16

/-- A 20-bit transaction word (30_encoding.md R60). -/
abbrev TxWord := BitVec 20

/-- A register word address, A = 0..7 (20_memory.md R50). -/
abbrev RegAddr := BitVec 3

/-- A byte of a byte-addressed platform mapping (20_memory.md R53). -/
abbrev Byte := BitVec 8

end Sys2Proof
end

