-- ==== Sys2Proof/Config.lean ====
section
/-! DEFINITION. The build-time parameters of DMCT (00_scope.md R8, R9), and the constants without a body that stand for
what the spec leaves to the implementation or the environment. -/

namespace Sys2Proof

/-- The legal values of `ICU_TIMER_PRESCALER` (P): {1, 8, 64, 256, 1024} (00_scope.md R8). -/
inductive Prescaler where
  | div1
  | div8
  | div64
  | div256
  | div1024
  deriving DecidableEq, Repr, Inhabited

/-- P as a number. -/
def Prescaler.toNat : Prescaler → Nat
  | .div1 => 1
  | .div8 => 8
  | .div64 => 64
  | .div256 => 256
  | .div1024 => 1024

/-- The prescaler with a given divisor, where the divisor is legal. -/
def Prescaler.ofNat? (n : Nat) : Option Prescaler :=
  if n = 1 then some .div1
  else if n = 8 then some .div8
  else if n = 64 then some .div64
  else if n = 256 then some .div256
  else if n = 1024 then some .div1024
  else none

/-- The parameters of R8 and the window's base `DMCT_BASE` (20_memory.md R50). A value of this type is a LEGAL
configuration: its last three fields are the ranges of R8, so an illegal one cannot be built (R9: it is refused).
DESIGN CHOICE (log 4): legality is carried by the type. The default values are the fixture column of R8; they only show
Lean that the type is inhabited. -/
structure Params where
  /-- `F_CPU`, Hz. -/
  fCpu : Nat := 16000000
  /-- `ICU_TIMER_PRESCALER`, P. -/
  prescaler : Prescaler := .div8
  /-- `SOUND_SPEED_CM_PER_SEC`, S. -/
  soundSpeed : Nat := 34300
  /-- `TRIGGER_PIN_DELAY_US`, TW, µs. -/
  trigDelayUs : Nat := 10
  /-- `DMCT_BASE`; no transaction reads it, only a byte-addressed mapping does (20_memory.md R53). -/
  dmctBase : Nat := 0
  fCpu_pos : 0 < fCpu := by decide
  soundSpeed_pos : 0 < soundSpeed := by decide
  trigDelay_ge : 10 ≤ trigDelayUs := by decide
  deriving DecidableEq, Repr, Inhabited

/-- A configuration as a builder writes it, before the check of R9. -/
structure RawParams where
  fCpu : Nat
  prescaler : Nat
  soundSpeed : Nat
  trigDelayUs : Nat
  dmctBase : Nat
  deriving DecidableEq, Repr

/-- Why a configuration is refused (00_scope.md R9). Each is SAFE: the configuration has no model at all. -/
inductive ConfigRefusal where
  /-- P outside {1, 8, 64, 256, 1024}. -/
  | prescaler
  /-- `F_CPU` = 0. -/
  | fCpu
  /-- S = 0. -/
  | soundSpeed
  /-- TW < 10. -/
  | triggerDelay
  deriving DecidableEq, Repr

/-- R9: a configuration outside the ranges of R8 is refused, any other becomes the `Params` of the same values. -/
def Params.ofRaw (r : RawParams) : Except ConfigRefusal Params :=
  match Prescaler.ofNat? r.prescaler with
  | none => .error .prescaler
  | some p =>
    if hf : 0 < r.fCpu then
      if hs : 0 < r.soundSpeed then
        if ht : 10 ≤ r.trigDelayUs then
          .ok ⟨r.fCpu, p, r.soundSpeed, r.trigDelayUs, r.dmctBase, hf, hs, ht⟩
        else .error .triggerDelay
      else .error .soundSpeed
    else .error .fCpu

/-- The fixture column of R8: F_CPU = 16 MHz, P = 8, S = 34 300, TW = 10. The base is not in that table; 0 here. -/
def Params.fixture : Params :=
  ⟨16000000, .div8, 34300, 10, 0, by decide, by decide, by decide⟩

/-- FREE VALUE without a body: the built machine's parameters, any legal configuration; nothing can evaluate it or prove
a value of it (00_scope.md R8; log 4). -/
opaque Config.params : Params

/-- FREE VALUE without a body: `ECHO_RESET`, the echo pin's level at reset (10_state.md R32, R37; log 3). -/
opaque Config.echoReset : Bool

end Sys2Proof
end

