-- ==== Sys2Proof/Syntax.lean ====
section
/-! DEFINITION. The instructions of DMCT: one constructor per row of spec/opcode_table.json (30_encoding.md R63). A field
of the transaction word that the spec says is ignored is kept as an operand `d`, so that no bit of a word is lost. -/

namespace Sys2Proof

/-- A host transaction that selects a row of the opcode table (30_encoding.md R63). -/
inductive Instr where
  /-- RD_CTRL (R80); `d` is the ignored data field. -/
  | rdCtrl (d : Word)
  /-- RD_STATUS (R81). -/
  | rdStatus (d : Word)
  /-- RD_TCNT (R82). -/
  | rdTcnt (d : Word)
  /-- RD_ICR (R83), the source's `read_capture()`. -/
  | rdIcr (d : Word)
  /-- RD_HTT (R84). -/
  | rdHtt (d : Word)
  /-- RD_DIST (R85). -/
  | rdDist (d : Word)
  /-- RD_ZERO (R86, R72): `a` is 6 (CMD) or 7 (reserved). -/
  | rdZero (a : RegAddr) (d : Word)
  /-- NOP (R87). -/
  | nop
  /-- ICU_INIT(cs, e) (R88, R64). -/
  | icuInit (cs : BitVec 3) (e : Bool)
  /-- ICU_SET_CALLBACK(b) (R89, R65). -/
  | icuSetCallback (b : Bool)
  /-- ICU_SET_EDGE(e) (R90, R66). -/
  | icuSetEdge (e : Bool)
  /-- ICU_CLEAR_COUNTER (R91). -/
  | icuClearCounter
  /-- ICU_DEINIT (R92). -/
  | icuDeinit
  /-- US_INIT (41_ultrasonic.md R100). -/
  | usInit
  /-- US_READ_DISTANCE (41_ultrasonic.md R101). -/
  | usReadDistance
  /-- WR_IGNORED, the row of A = 0..3 (R70); `d` is the discarded data. -/
  | wrIgnoredLow (a : RegAddr) (d : Word)
  /-- WR_IGNORED, the row of A = 4 and 5 (R70). -/
  | wrIgnoredMid (a : RegAddr) (d : Word)
  /-- WR_IGNORED, the row of A = 7 (R70). -/
  | wrIgnoredSeven (d : Word)
  deriving DecidableEq, Repr

end Sys2Proof
end

