-- ==== Sys2Proof/Machine/State.lean ====
section
/-! DEFINITION. The state of DMCT (10_state.md), the host's program items and the agents' turns as plain data, the ways a
step can stop, and the state after reset (10_state.md R37). -/

namespace Sys2Proof.Machine

open Sys2Proof

/-- An observable output event (10_state.md R36). DMCT emits one kind. -/
inductive OutEvent where
  /-- `TrigPulse(width_us, driven)` (41_ultrasonic.md R102): `driven` says whether the pin was an output. -/
  | trigPulse (widthUs : Nat) (driven : Bool)
  deriving DecidableEq, Repr

/-- An access a host makes through a byte-addressed platform mapping of the window (20_memory.md R53, R54). -/
inductive MappedAccess where
  /-- Read `len` bytes at byte address `addr`. -/
  | load (addr len : Nat)
  /-- Write the bytes, lowest address first, at byte address `addr`. -/
  | store (addr : Nat) (bytes : List Byte)
  deriving DecidableEq, Repr

/-- One item of the host's program: a transaction or a host action (10_state.md R34, 60_exceptions.md R111). -/
inductive HostItem where
  /-- A bus transaction, as its 20-bit word (30_encoding.md R60). -/
  | trans (t : TxWord)
  /-- `sei`: GIE <- 1. -/
  | sei
  /-- `cli`: GIE <- 0. -/
  | cli
  /-- An access through a byte-addressed mapping (20_memory.md R53; log 9). -/
  | mapped (m : MappedAccess)
  deriving DecidableEq, Repr

/-- Which agent is to move (00_scope.md R7, 20_memory.md R52), with the environment's choice where the agent has one.
DESIGN CHOICE (log 1): the free interleaving is data of the state. -/
inductive Turn where
  | host
  | tick
  /-- `EchoSet(v)` (40_icu.md R96). -/
  | echoSet (v : Bool)
  | svcEnter
  | svcRun
  /-- A reset, which starts a new run (70_reset_and_hazards.md R125): the echo level drawn and the program of that run. -/
  | reset (echo : Bool) (program : List HostItem)
  deriving DecidableEq, Repr, Inhabited

/-- Everything the spec gives the machine, and the model's own scheduling data. -/
structure State where
  /-- The build-time parameters, which no step changes (00_scope.md R8). -/
  params : Params
  /-- CTRL.CS, the clock source (R15). -/
  cs : BitVec 3
  /-- CTRL.EDGE: true = rising (R16). -/
  edge : Bool
  /-- CTRL.ICIE, the capture-interrupt enable (R17). -/
  icie : Bool
  /-- CTRL.CB: true = the measurement state machine (R18). -/
  cb : Bool
  /-- CTRL.TRIG_OE, the trigger pin is an output (R19). -/
  trigOe : Bool
  /-- STATUS.ICF, the capture is pending (R21). -/
  icf : Bool
  /-- STATUS.READY (R22). -/
  ready : Bool
  /-- STATUS.EC, the edge count, 2 bits (R23). -/
  ec : BitVec 2
  /-- TCNT (R25). -/
  tcnt : Word
  /-- ICR (R26). -/
  icr : Word
  /-- HTT, `high_time_ticks` (R27). -/
  htt : Word
  /-- DIST, `last_distance_cm` (R28). -/
  dist : Word
  /-- INSVC, a service is in progress; hidden (R31). -/
  insvc : Bool
  /-- ECHO, the echo pin's level (R32). -/
  echo : Bool
  /-- GIE, the host's global interrupt enable (R33). -/
  gie : Bool
  /-- The output history, oldest first (R36). -/
  history : List OutEvent
  /-- The data the host's reads returned, oldest first (R36: part of the host's observation; log 5). -/
  reads : List Word
  /-- The host's items not issued yet, in program order (R34; log 6). -/
  program : List HostItem
  /-- The host program's position (R34). -/
  index : Nat
  /-- MODEL's own: the agents' turns, next first (log 1). -/
  turns : List Turn
  /-- MODEL's own: how many turns were drawn after `turns` ran out (log 1). -/
  drawn : Nat
  deriving DecidableEq, Repr

/-- FREE VALUE without a body: the agent that moves at the n-th draw, once the turns in the state have run out. The spec
lets any agent move next (60_exceptions.md R118; log 1). -/
opaque Config.freeTurn : Nat → Turn

/-- DMCT raises no exception and no operation has an error result (60_exceptions.md R108), so no step can fault and the
type has no constructor (DEDUCED, log 12). -/
inductive Fault where
  deriving DecidableEq, Repr

/-- Why the model gives a step no meaning. -/
inductive Refusal where
  /-- An instruction without a meaning yet; no arm of exec raises it. SAFE. -/
  | notModelled (mnemonic : String)
  /-- A host item that accesses a byte-addressed mapping without covering exactly one whole register raises it
  (20_memory.md R53 "A byte access through such a mapping is outside the model (refused)", R54). SAFE. -/
  | partialRegisterAccess
  deriving DecidableEq, Repr

/-- The reset values of 10_state.md R37 for a machine with the given parameters and the given draw of `ECHO_RESET`.
The program, its position, the read data and the scheduling data are empty or 0: DESIGN CHOICE (logs 1, 5, 6). -/
def State.resetWith (p : Params) (echo : Bool) : State where
  params := p
  cs := 0#3
  edge := false
  icie := false
  cb := false
  trigOe := false
  icf := false
  ready := false
  ec := 0#2
  tcnt := 0#16
  icr := 0#16
  htt := 0#16
  dist := 0#16
  insvc := false
  echo := echo
  gie := false
  history := []
  reads := []
  program := []
  index := 0
  turns := []
  drawn := 0

/-- The machine right after reset (10_state.md R37, 70_reset_and_hazards.md R125): any legal parameters, any echo level. -/
def State.reset : State := State.resetWith Config.params Config.echoReset

end Sys2Proof.Machine
end

