-- ==== Sys2Proof/Machine/Convert.lean ====
section
/-! DEFINITION. The tick-to-centimetre converter and its bias table (41_ultrasonic.md R103 to R105). -/

namespace Sys2Proof.Machine

open Sys2Proof

/-- `RawCm(h) = (S * h * P + 2 * F_CPU - 1) div (2 * F_CPU)`, an unbounded natural (R103). P is the build-time
parameter, never CS. -/
def rawCm (p : Params) (h : Nat) : Nat :=
  (p.soundSpeed * h * p.prescaler.toNat + 2 * p.fCpu - 1) / (2 * p.fCpu)

/-- `Bias(r)`, half-open intervals (R104). -/
def bias (r : Nat) : Nat :=
  if r < 59 then 0
  else if r < 129 then 1
  else if r < 199 then 2
  else if r < 270 then 3
  else if r < 343 then 4
  else 5

/-- `correct(r) = r + Bias(r)` (R104). -/
def correct (r : Nat) : Nat := r + bias r

/-- What US_READ_DISTANCE stores for HTT: `(RawCm(HTT) + Bias(RawCm(HTT))) mod 2^16` (R105). -/
def distanceWord (p : Params) (htt : Word) : Word :=
  BitVec.ofNat 16 (correct (rawCm p htt.toNat))

end Sys2Proof.Machine
end

