-- ==== Sys2Proof/Machine/Flags.lean ====
section
/-! DEFINITION. The flag computations and the register images that hold no storage of their own: IRQ, CTRL, STATUS, the
trigger line (10_state.md R14, R19, R20, R24). -/

namespace Sys2Proof.Machine

open Sys2Proof

/-- IRQ = ICF AND ICIE (10_state.md R24). -/
def irq (s : State) : Bool := s.icf && s.icie

/-- CTRL as the host reads it: `zext_16({TRIG_OE, CB, ICIE, EDGE, CS})` (40_icu.md R80, 10_state.md R14). -/
def ctrlWord (s : State) : Word :=
  (BitVec.ofBool s.trigOe ++ BitVec.ofBool s.cb ++ BitVec.ofBool s.icie ++ BitVec.ofBool s.edge ++ s.cs).setWidth 16

/-- STATUS as the host reads it: `zext_16({ICF AND ICIE, EC[1:0], READY, ICF})` (40_icu.md R81, 10_state.md R20). -/
def statusWord (s : State) : Word :=
  (BitVec.ofBool (irq s) ++ s.ec ++ BitVec.ofBool s.ready ++ BitVec.ofBool s.icf).setWidth 16

/-- The trigger line at a step boundary: low, since a pulse begins and ends inside one step (10_state.md R19). -/
def triggerLine (_s : State) : Bool := false

end Sys2Proof.Machine
end

