-- ==== Sys2Proof/WellFormed.lean ====
section
/-! DEFINITION. Which instruction terms stand for transaction words: the address operands must lie in their row
(30_encoding.md R61, R63, R70). Every other operand is legal at every value of its width (R64 to R66). -/

namespace Sys2Proof

/-- The row's address range holds the address operand. -/
def Instr.wellFormed : Instr → Bool
  | .rdCtrl _ => true
  | .rdStatus _ => true
  | .rdTcnt _ => true
  | .rdIcr _ => true
  | .rdHtt _ => true
  | .rdDist _ => true
  | .rdZero a _ => a = 6#3 || a = 7#3
  | .nop => true
  | .icuInit _ _ => true
  | .icuSetCallback _ => true
  | .icuSetEdge _ => true
  | .icuClearCounter => true
  | .icuDeinit => true
  | .usInit => true
  | .usReadDistance => true
  | .wrIgnoredLow a _ => a = 0#3 || a = 1#3 || a = 2#3 || a = 3#3
  | .wrIgnoredMid a _ => a = 4#3 || a = 5#3
  | .wrIgnoredSeven _ => true

end Sys2Proof
end

