-- ==== Sys2Proof/Decode.lean ====
section
/-! DEFINITION. The decoder of 20-bit transaction words (30_encoding.md R60, R61, R74), then the encoder, and the
match and mask table of R63 as data. -/

namespace Sys2Proof

/-- Why a command word is reserved (30_encoding.md R71). -/
inductive ReservedCommand where
  /-- OP is 0x6, 0x7 or 0xA to 0xF. -/
  | opcode (op : BitVec 4)
  /-- OP is a command, but a bit that R64 to R67 require to be 0 is 1. -/
  | operandBits (op : BitVec 4)
  deriving DecidableEq, Repr

/-- What a transaction word is: an instruction of the table, or a reserved command, which names why. -/
inductive Decoded where
  | instr (i : Instr)
  | reserved (r : ReservedCommand)
  deriving DecidableEq, Repr

/-- W = T[19] (R60). -/
def txW (t : TxWord) : BitVec 1 := t.extractLsb' 19 1

/-- A = T[18:16] (R60). -/
def txA (t : TxWord) : RegAddr := t.extractLsb' 16 3

/-- D = T[15:0] (R60). -/
def txD (t : TxWord) : Word := t.extractLsb' 0 16

/-- OP = D[15:12] (R62). -/
def cmdOp (d : Word) : BitVec 4 := d.extractLsb' 12 4

/-- Reads select by A alone; D is ignored (R61). -/
def decodeRead (a : RegAddr) (d : Word) : Instr :=
  if a = 0#3 then .rdCtrl d
  else if a = 1#3 then .rdStatus d
  else if a = 2#3 then .rdTcnt d
  else if a = 3#3 then .rdIcr d
  else if a = 4#3 then .rdHtt d
  else if a = 5#3 then .rdDist d
  else .rdZero a d

/-- Writes to A ≠ 6 (R70), row by row of the table. -/
def decodeIgnoredWrite (a : RegAddr) (d : Word) : Instr :=
  if a = 7#3 then .wrIgnoredSeven d
  else if a = 4#3 ∨ a = 5#3 then .wrIgnoredMid a d
  else .wrIgnoredLow a d

/-- An instruction where the bits required to be 0 are 0, a reserved command otherwise (R71). -/
def decodeIfZero {n : Nat} (mustBeZero : BitVec n) (op : BitVec 4) (i : Instr) : Decoded :=
  if mustBeZero = 0 then .instr i else .reserved (.operandBits op)

/-- The `case OP` of R74. -/
def decodeCommand (d : Word) : Decoded :=
  let op := cmdOp d
  let low12 : BitVec 12 := d.extractLsb' 0 12
  if op = 0x0#4 then decodeIfZero low12 op .nop
  else if op = 0x1#4 then decodeIfZero (d.extractLsb' 4 8) op (.icuInit (d.extractLsb' 0 3) (d.getLsbD 3))
  else if op = 0x2#4 then decodeIfZero (d.extractLsb' 1 11) op (.icuSetCallback (d.getLsbD 0))
  else if op = 0x3#4 then
    decodeIfZero (d.extractLsb' 4 8 ++ d.extractLsb' 0 3) op (.icuSetEdge (d.getLsbD 3))
  else if op = 0x4#4 then decodeIfZero low12 op .icuClearCounter
  else if op = 0x5#4 then decodeIfZero low12 op .icuDeinit
  else if op = 0x8#4 then decodeIfZero low12 op .usInit
  else if op = 0x9#4 then decodeIfZero low12 op .usReadDistance
  else .reserved (.opcode op)

/-- R74: decoding is total on every 20-bit word. -/
def decode (t : TxWord) : Decoded :=
  if txW t = 0#1 then .instr (decodeRead (txA t) (txD t))
  else if txA t ≠ 6#3 then .instr (decodeIgnoredWrite (txA t) (txD t))
  else decodeCommand (txD t)

/-- The host's question about one row: the instruction read from the table word `w` of `nbits` bits (the bits above are
0). A value that does not fit in 20 bits is no transaction word (R60 "A decoder takes exactly 20 bits"; log 10). -/
def decodeTableWord (nbits w : Nat) : Option Instr :=
  if w % 2 ^ nbits < 2 ^ 20 then
    match decode (BitVec.ofNat 20 (w % 2 ^ nbits)) with
    | .instr i => some i
    | .reserved _ => none
  else none

/-- A transaction word from its fields: T = (W, A, D) (R60). -/
def mkTx (w : BitVec 1) (a : RegAddr) (d : Word) : TxWord := w ++ a ++ d

/-- A command word: OP = D[15:12], operands in D[11:0], written to A = 6 (R62). -/
def mkCmd (op : BitVec 4) (operands : BitVec 12) : TxWord := mkTx 1#1 6#3 (op ++ operands)

/-- The word of an instruction, from the encoding strings of R63. -/
def encode : Instr → TxWord
  | .rdCtrl d => mkTx 0#1 0#3 d
  | .rdStatus d => mkTx 0#1 1#3 d
  | .rdTcnt d => mkTx 0#1 2#3 d
  | .rdIcr d => mkTx 0#1 3#3 d
  | .rdHtt d => mkTx 0#1 4#3 d
  | .rdDist d => mkTx 0#1 5#3 d
  | .rdZero a d => mkTx 0#1 a d
  | .nop => mkCmd 0x0#4 0#12
  | .icuInit cs e => mkCmd 0x1#4 (0#8 ++ BitVec.ofBool e ++ cs)
  | .icuSetCallback b => mkCmd 0x2#4 (0#11 ++ BitVec.ofBool b)
  | .icuSetEdge e => mkCmd 0x3#4 (0#8 ++ BitVec.ofBool e ++ 0#3)
  | .icuClearCounter => mkCmd 0x4#4 0#12
  | .icuDeinit => mkCmd 0x5#4 0#12
  | .usInit => mkCmd 0x8#4 0#12
  | .usReadDistance => mkCmd 0x9#4 0#12
  | .wrIgnoredLow a d => mkTx 1#1 a d
  | .wrIgnoredMid a d => mkTx 1#1 a d
  | .wrIgnoredSeven d => mkTx 1#1 7#3 d

/-- A row of the match and mask table (R63). -/
structure OpcodeRow where
  mnemonic : String
  pattern : TxWord
  mask : TxWord
  deriving DecidableEq, Repr

/-- A word selects a row when `(T AND mask) = match` (R63). -/
def OpcodeRow.selects (r : OpcodeRow) (t : TxWord) : Bool := t &&& r.mask = r.pattern

/-- The row of an instruction in the table of R63 and spec/opcode_table.json. -/
def Instr.row : Instr → OpcodeRow
  | .rdCtrl _ => ⟨"RD_CTRL", 0x00000#20, 0xF0000#20⟩
  | .rdStatus _ => ⟨"RD_STATUS", 0x10000#20, 0xF0000#20⟩
  | .rdTcnt _ => ⟨"RD_TCNT", 0x20000#20, 0xF0000#20⟩
  | .rdIcr _ => ⟨"RD_ICR", 0x30000#20, 0xF0000#20⟩
  | .rdHtt _ => ⟨"RD_HTT", 0x40000#20, 0xF0000#20⟩
  | .rdDist _ => ⟨"RD_DIST", 0x50000#20, 0xF0000#20⟩
  | .rdZero _ _ => ⟨"RD_ZERO", 0x60000#20, 0xE0000#20⟩
  | .nop => ⟨"NOP", 0xE0000#20, 0xFFFFF#20⟩
  | .icuInit _ _ => ⟨"ICU_INIT", 0xE1000#20, 0xFFFF0#20⟩
  | .icuSetCallback _ => ⟨"ICU_SET_CALLBACK", 0xE2000#20, 0xFFFFE#20⟩
  | .icuSetEdge _ => ⟨"ICU_SET_EDGE", 0xE3000#20, 0xFFFF7#20⟩
  | .icuClearCounter => ⟨"ICU_CLEAR_COUNTER", 0xE4000#20, 0xFFFFF#20⟩
  | .icuDeinit => ⟨"ICU_DEINIT", 0xE5000#20, 0xFFFFF#20⟩
  | .usInit => ⟨"US_INIT", 0xE8000#20, 0xFFFFF#20⟩
  | .usReadDistance => ⟨"US_READ_DISTANCE", 0xE9000#20, 0xFFFFF#20⟩
  | .wrIgnoredLow _ _ => ⟨"WR_IGNORED", 0x80000#20, 0xC0000#20⟩
  | .wrIgnoredMid _ _ => ⟨"WR_IGNORED", 0xC0000#20, 0xE0000#20⟩
  | .wrIgnoredSeven _ => ⟨"WR_IGNORED", 0xF0000#20, 0xF0000#20⟩

/-- The table of R63 in its own order; each row taken at one instruction of it. -/
def opcodeTable : List OpcodeRow :=
  [Instr.rdCtrl 0, .rdStatus 0, .rdTcnt 0, .rdIcr 0, .rdHtt 0, .rdDist 0, .rdZero 6 0, .nop, .icuInit 0 false].map
    Instr.row ++
  [Instr.icuSetCallback false, .icuSetEdge false, .icuClearCounter, .icuDeinit, .usInit, .usReadDistance].map
    Instr.row ++
  [Instr.wrIgnoredLow 0 0, .wrIgnoredMid 4 0, .wrIgnoredSeven 0].map Instr.row

end Sys2Proof
end

