-- ==== Sys2Proof/Machine/Operands.lean ====
section
/-! DEFINITION. The operand forms: the clock-source codes (30_encoding.md R68), the edge code (R69), and the registers'
places in a byte-addressed mapping (20_memory.md R53). -/

namespace Sys2Proof.Machine

open Sys2Proof

/-- The clock sources of CS (30_encoding.md R68). -/
inductive ClockSource where
  | stopped
  /-- The CPU clock divided by N. -/
  | cpuDiv (n : Nat)
  | extFalling
  | extRising
  deriving DecidableEq, Repr

/-- The table of R68. -/
def clockSource (cs : BitVec 3) : ClockSource :=
  if cs = 0#3 then .stopped
  else if cs = 1#3 then .cpuDiv 1
  else if cs = 2#3 then .cpuDiv 8
  else if cs = 3#3 then .cpuDiv 64
  else if cs = 4#3 then .cpuDiv 256
  else if cs = 5#3 then .cpuDiv 1024
  else if cs = 6#3 then .extFalling
  else .extRising

/-- The divisor column of R68. -/
def ClockSource.divisor : ClockSource → Option Nat
  | .cpuDiv n => some n
  | .stopped => none
  | .extFalling => none
  | .extRising => none

/-- `code(P)` of R68. -/
def csCode : Prescaler → BitVec 3
  | .div1 => 1#3
  | .div8 => 2#3
  | .div64 => 3#3
  | .div256 => 4#3
  | .div1024 => 5#3

/-- A `Tick` can fire unless the timer is stopped (40_icu.md R94, R95). -/
def tickEnabled (cs : BitVec 3) : Bool := clockSource cs ≠ .stopped

/-- The duration of one tick in seconds, N / F_CPU, where CS selects an internal divisor (00_scope.md R12). No step
reads it. -/
def tickSeconds (p : Params) (cs : BitVec 3) : Option Rat :=
  (clockSource cs).divisor.map fun n => (n : Rat) / (p.fCpu : Rat)

/-- A transition from `old` to `new` matches EDGE: rising where EDGE = 1, falling where EDGE = 0 (40_icu.md R96,
30_encoding.md R69). -/
def edgeMatches (edge old new : Bool) : Bool :=
  (!old && new && edge) || (old && !new && !edge)

/-- Byte `DMCT_BASE + 2A` of a register's word: bits [7:0] (20_memory.md R53). -/
def lowByte (v : Word) : Byte := v.extractLsb' 0 8

/-- Byte `DMCT_BASE + 2A + 1` of a register's word: bits [15:8] (20_memory.md R53). -/
def highByte (v : Word) : Byte := v.extractLsb' 8 8

/-- The register whose two bytes start at byte address `addr`, where there is one (20_memory.md R53). -/
def registerAt (base addr : Nat) : Option RegAddr :=
  if base ≤ addr ∧ addr < base + 16 ∧ (addr - base) % 2 = 0 then
    some (BitVec.ofNat 3 ((addr - base) / 2))
  else none

/-- The transaction of a mapped access that covers exactly one whole register; none otherwise (20_memory.md R53, R54). -/
def mappedTx (base : Nat) : MappedAccess → Option TxWord
  | .load addr len =>
    if len = 2 then (registerAt base addr).map fun a => mkTx 0#1 a 0#16 else none
  | .store addr bytes =>
    match bytes with
    | [lo, hi] => (registerAt base addr).map fun a => mkTx 1#1 a (hi ++ lo)
    | _ => none

end Sys2Proof.Machine
end

