-- ==== Sys2Proof/Machine/Ops.lean ====
section
/-! DEFINITION. The named operations over the state: what a read returns to the host, events, capture, the ICU
configuration, the measurement state machine, taking the interrupt and returning from it, reset. -/

namespace Sys2Proof.Machine

open Sys2Proof

/-- A bus read returns `v`; a read changes no state of DMCT (20_memory.md R56), only what the host has observed (R36). -/
def busReturn (v : Word) (s : State) : State := { s with reads := s.reads ++ [v] }

/-- `emit Event`: append to the output history (00_scope.md R11, 10_state.md R36). -/
def emit (e : OutEvent) (s : State) : State := { s with history := s.history ++ [e] }

/-- The timer and flag part shared by ICU_INIT and US_INIT (40_icu.md R88, 41_ultrasonic.md R100). -/
def icuConfigure (cs : BitVec 3) (e : Bool) (s : State) : State :=
  { s with cs := cs, edge := e, tcnt := 0#16, icr := 0#16, icf := false, icie := true }

/-- The trigger pulse of US_READ_DISTANCE: `TrigPulse(TW, TRIG_OE)` (41_ultrasonic.md R102). -/
def triggerPulse (s : State) : State := emit (.trigPulse s.params.trigDelayUs s.trigOe) s

/-- Steps 3 to 5 of US_READ_DISTANCE: READY <- 0 and DIST <- the corrected distance (41_ultrasonic.md R101, R105). -/
def consumeMeasurement (s : State) : State :=
  { s with ready := false, dist := distanceWord s.params s.htt }

/-- `Tick`: TCNT <- (TCNT + 1) mod 2^16 (40_icu.md R95, R93). -/
def tick (s : State) : State := { s with tcnt := s.tcnt + 1#16 }

/-- `Capture()`: ICR <- TCNT, ICF <- 1 (40_icu.md R97). -/
def capture (s : State) : State := { s with icr := s.tcnt, icf := true }

/-- `EchoSet(v)`: the pin takes level `v`; a transition that matches EDGE captures in the same step (40_icu.md R96). -/
def echoSet (v : Bool) (s : State) : State :=
  if edgeMatches s.edge s.echo v then capture { s with echo := v } else { s with echo := v }

/-- `EdgeProcess`, first-edge branch: EC <- 1, TCNT <- 0, EDGE <- 0 (41_ultrasonic.md R106). -/
def firstEdge (s : State) : State := { s with ec := 1#2, tcnt := 0#16, edge := false }

/-- `EdgeProcess`, second-edge branch: HTT <- ICR, EDGE <- 1, READY <- 1, EC <- 0 (41_ultrasonic.md R106). -/
def secondEdge (s : State) : State := { s with htt := s.icr, edge := true, ready := true, ec := 0#2 }

/-- `EdgeProcess`, on the old value of EC; EC 2 and 3 change nothing (41_ultrasonic.md R106, R107). -/
def edgeProcess (s : State) : State :=
  if s.ec = 0#2 then firstEdge s
  else if s.ec = 1#2 then secondEdge s
  else s

/-- `SvcEnter` can fire: ICF = 1, ICIE = 1, GIE = 1, INSVC = 0 (60_exceptions.md R112). -/
def svcEnterEnabled (s : State) : Bool := s.icf && s.icie && s.gie && !s.insvc

/-- TAKING THE INTERRUPT. `SvcEnter`: ICF <- 0, INSVC <- 1; it saves nothing (60_exceptions.md R112, R117). -/
def svcEnter (s : State) : State := { s with icf := false, insvc := true }

/-- `SvcRun` can fire: INSVC = 1 (60_exceptions.md R113). -/
def svcRunEnabled (s : State) : Bool := s.insvc

/-- The installed callback, if any (10_state.md R18, 60_exceptions.md R113). -/
def runCallback (s : State) : State := if s.cb then edgeProcess s else s

/-- RETURNING FROM IT. `SvcRun`: the callback if CB = 1, then INSVC <- 0 (60_exceptions.md R113). -/
def svcRun (s : State) : State := { runCallback s with insvc := false }

/-- `sei` and `cli`: GIE <- v (60_exceptions.md R111). -/
def setGie (v : Bool) (s : State) : State := { s with gie := v }

/-- The host has issued its next item: its position advances by exactly one (10_state.md R34). -/
def advance (s : State) : State := { s with program := s.program.tail, index := s.index + 1 }

/-- A reserved command has no effect (30_encoding.md R71). The spec lets a model refuse it instead: DESIGN CHOICE
(log 8). -/
def reservedCommand (_r : ReservedCommand) (s : State) : State := s

/-- A reset during a run: every piece of state takes its reset value and a new run of the host begins; the parameters
stay, and so does the model's scheduling data (70_reset_and_hazards.md R125; DESIGN CHOICE, log 7). -/
def resetStep (echo : Bool) (program : List HostItem) (s : State) : State :=
  { State.resetWith s.params echo with program := program, turns := s.turns, drawn := s.drawn }

/-- The agent whose turn it is: the state's next turn or, where the turns ran out, a free one (log 1). -/
def nextTurn (s : State) : Turn :=
  match s.turns with
  | t :: _ => t
  | [] => Config.freeTurn s.drawn

/-- The turn is used up (log 1). -/
def takeTurn (s : State) : State :=
  match s.turns with
  | _ :: rest => { s with turns := rest }
  | [] => { s with drawn := s.drawn + 1 }

end Sys2Proof.Machine
end

