-- ==== Sys2Proof/Machine/Actions.lean ====
section
/-! DEFINITION. What the next step does: whose turn it is, whether that agent is enabled, and what the host's next item
is (00_scope.md R7, 20_memory.md R52, 60_exceptions.md R114, R118). -/

namespace Sys2Proof.Machine

open Sys2Proof

/-- What one step does, once its enabling condition has been looked at. -/
inductive Action where
  /-- The agent whose turn it is is not enabled, or the host has nothing left to issue: it takes no step. -/
  | wait
  /-- The host issues an instruction of the table. -/
  | instr (i : Instr)
  /-- The host issues a reserved command (30_encoding.md R71). -/
  | reserved (r : ReservedCommand)
  /-- The host drives GIE (60_exceptions.md R111). -/
  | driveGie (v : Bool)
  /-- The host makes a mapped access that does not cover exactly one whole register (20_memory.md R53, R54). -/
  | partialAccess
  | tick
  | echoSet (v : Bool)
  | svcEnter
  | svcRun
  | reset (echo : Bool) (program : List HostItem)
  deriving DecidableEq, Repr

/-- The host's step for a transaction word. -/
def txAction (t : TxWord) : Action :=
  match decode t with
  | .instr i => .instr i
  | .reserved r => .reserved r

/-- The host's step for one item of its program. -/
def itemAction (p : Params) (item : HostItem) : Action :=
  match item with
  | .trans t => txAction t
  | .sei => .driveGie true
  | .cli => .driveGie false
  | .mapped m =>
    match mappedTx p.dmctBase m with
    | some t => txAction t
    | none => .partialAccess

/-- The host's step: none while INSVC = 1 (60_exceptions.md R114) or with no item left, else its next item in program
order (20_memory.md R58). -/
def hostAction (s : State) : Action :=
  if s.insvc then .wait
  else
    match s.program with
    | [] => .wait
    | item :: _ => itemAction s.params item

/-- The next step's action. An agent that is not enabled waits: DESIGN CHOICE (log 2). -/
def nextAction (s : State) : Action :=
  match nextTurn s with
  | .host => hostAction s
  | .tick => if tickEnabled s.cs then .tick else .wait
  | .echoSet v => .echoSet v
  | .svcEnter => if svcEnterEnabled s then .svcEnter else .wait
  | .svcRun => if svcRunEnabled s then .svcRun else .wait
  | .reset echo program => .reset echo program

/-- `s` with a transaction word placed as the host's next item, the host's turn next, and no service in progress, so that
the host may step (60_exceptions.md R114; log 6). -/
def placeWord (t : TxWord) (s : State) : State :=
  { s with program := .trans t :: s.program, turns := .host :: s.turns, insvc := false }

end Sys2Proof.Machine
end

