-- ==== Sys2Proof/Machine/IcuCommands.lean ====
section
/-! DEFINITION. The ICU commands (40_icu.md R87 to R92). -/

namespace Sys2Proof.Machine

open Sys2Proof

/-- NOP (R87). -/
def execNop (s : State) : Host.Outcome State Fault Refusal := .next s

/-- ICU_INIT(cs, e) (R88). -/
def execIcuInit (cs : BitVec 3) (e : Bool) (s : State) : Host.Outcome State Fault Refusal :=
  .next (icuConfigure cs e s)

/-- ICU_SET_CALLBACK(b): CB <- b (R89). -/
def execIcuSetCallback (b : Bool) (s : State) : Host.Outcome State Fault Refusal := .next { s with cb := b }

/-- ICU_SET_EDGE(e): EDGE <- e; no capture, ICF unchanged (R90). -/
def execIcuSetEdge (e : Bool) (s : State) : Host.Outcome State Fault Refusal := .next { s with edge := e }

/-- ICU_CLEAR_COUNTER: TCNT <- 0 (R91). -/
def execIcuClearCounter (s : State) : Host.Outcome State Fault Refusal := .next { s with tcnt := 0#16 }

/-- ICU_DEINIT: CS, EDGE, ICIE, TCNT and ICR <- 0; ICF is kept (R92). -/
def execIcuDeinit (s : State) : Host.Outcome State Fault Refusal :=
  .next { s with cs := 0#3, edge := false, icie := false, tcnt := 0#16, icr := 0#16 }

end Sys2Proof.Machine
end

