-- ==== Sys2Proof/Machine/IgnoredWrites.lean ====
section
/-! DEFINITION. Writes to any A ≠ 6: they change no state and emit nothing (30_encoding.md R70). -/

namespace Sys2Proof.Machine

open Sys2Proof

/-- WR_IGNORED, A = 0..3 (R70). -/
def execWrIgnoredLow (_a : RegAddr) (_d : Word) (s : State) : Host.Outcome State Fault Refusal := .next s

/-- WR_IGNORED, A = 4 and 5 (R70). -/
def execWrIgnoredMid (_a : RegAddr) (_d : Word) (s : State) : Host.Outcome State Fault Refusal := .next s

/-- WR_IGNORED, A = 7 (R70, 10_state.md R30). -/
def execWrIgnoredSeven (_d : Word) (s : State) : Host.Outcome State Fault Refusal := .next s

end Sys2Proof.Machine
end

