-- ==== Sys2Proof/Machine/Reads.lean ====
section
/-! DEFINITION. The bus reads (40_icu.md R80 to R86). The data field `d` is ignored (30_encoding.md R61). -/

namespace Sys2Proof.Machine

open Sys2Proof

/-- RD_CTRL (R80). -/
def execRdCtrl (_d : Word) (s : State) : Host.Outcome State Fault Refusal := .next (busReturn (ctrlWord s) s)

/-- RD_STATUS (R81). -/
def execRdStatus (_d : Word) (s : State) : Host.Outcome State Fault Refusal := .next (busReturn (statusWord s) s)

/-- RD_TCNT (R82). -/
def execRdTcnt (_d : Word) (s : State) : Host.Outcome State Fault Refusal := .next (busReturn s.tcnt s)

/-- RD_ICR (R83). -/
def execRdIcr (_d : Word) (s : State) : Host.Outcome State Fault Refusal := .next (busReturn s.icr s)

/-- RD_HTT (R84): the value held, whether or not READY is 1. -/
def execRdHtt (_d : Word) (s : State) : Host.Outcome State Fault Refusal := .next (busReturn s.htt s)

/-- RD_DIST (R85). -/
def execRdDist (_d : Word) (s : State) : Host.Outcome State Fault Refusal := .next (busReturn s.dist s)

/-- RD_ZERO (R86, R72): a read of CMD or of the reserved address returns 0. -/
def execRdZero (_a : RegAddr) (_d : Word) (s : State) : Host.Outcome State Fault Refusal := .next (busReturn 0#16 s)

end Sys2Proof.Machine
end

