-- ==== Sys2Proof/Machine/UsCommands.lean ====
section
/-! DEFINITION. The ultrasonic commands (41_ultrasonic.md R100, R101). -/

namespace Sys2Proof.Machine

open Sys2Proof

/-- US_INIT: the ICU_INIT part with cs = code(P) and a rising edge, then CB <- 1, TRIG_OE <- 1, EC <- 0 (R100). -/
def execUsInit (s : State) : Host.Outcome State Fault Refusal :=
  .next { icuConfigure (csCode s.params.prescaler) true s with cb := true, trigOe := true, ec := 0#2 }

/-- US_READ_DISTANCE: emit the trigger pulse; where READY = 1, consume the measurement (R101). -/
def execUsReadDistance (s : State) : Host.Outcome State Fault Refusal :=
  .next (if s.ready then consumeMeasurement (triggerPulse s) else triggerPulse s)

end Sys2Proof.Machine
end

