-- ==== Sys2Proof/Machine/Dispatch.lean ====
section
/-! DEFINITION. One arm per instruction. The conditions under which the host may issue one stand in Actions.lean. -/

namespace Sys2Proof.Machine

open Sys2Proof

def exec (i : Instr) (s : State) : Host.Outcome State Fault Refusal :=
  match i with
  | .rdCtrl d => Sys2Proof.Machine.execRdCtrl d s
  | .rdStatus d => Sys2Proof.Machine.execRdStatus d s
  | .rdTcnt d => Sys2Proof.Machine.execRdTcnt d s
  | .rdIcr d => Sys2Proof.Machine.execRdIcr d s
  | .rdHtt d => Sys2Proof.Machine.execRdHtt d s
  | .rdDist d => Sys2Proof.Machine.execRdDist d s
  | .rdZero a d => Sys2Proof.Machine.execRdZero a d s
  | .nop => Sys2Proof.Machine.execNop s
  | .icuInit cs e => Sys2Proof.Machine.execIcuInit cs e s
  | .icuSetCallback b => Sys2Proof.Machine.execIcuSetCallback b s
  | .icuSetEdge e => Sys2Proof.Machine.execIcuSetEdge e s
  | .icuClearCounter => Sys2Proof.Machine.execIcuClearCounter s
  | .icuDeinit => Sys2Proof.Machine.execIcuDeinit s
  | .usInit => Sys2Proof.Machine.execUsInit s
  | .usReadDistance => Sys2Proof.Machine.execUsReadDistance s
  | .wrIgnoredLow a d => Sys2Proof.Machine.execWrIgnoredLow a d s
  | .wrIgnoredMid a d => Sys2Proof.Machine.execWrIgnoredMid a d s
  | .wrIgnoredSeven d => Sys2Proof.Machine.execWrIgnoredSeven d s

end Sys2Proof.Machine
end

