-- ==== Sys2Proof/Machine/Step.lean ====
section
/-! DEFINITION. One atomic step of one agent (20_memory.md R52). -/

namespace Sys2Proof.Machine

open Sys2Proof

/-- Carry out an action. A host item moves the host's position by one around its own effect (10_state.md R34). -/
def perform (a : Action) (s : State) : Host.Outcome State Fault Refusal :=
  match a with
  | .wait => .next s
  | .instr i => exec i (advance s)
  | .reserved r => .next (reservedCommand r (advance s))
  | .driveGie v => .next (setGie v (advance s))
  | .partialAccess => .refused .partialRegisterAccess
  | .tick => .next (tick s)
  | .echoSet v => .next (echoSet v s)
  | .svcEnter => .next (svcEnter s)
  | .svcRun => .next (svcRun s)
  | .reset echo program => .next (resetStep echo program s)

/-- One step: the agent whose turn it is does what it is enabled to do. -/
def step (s : State) : Host.Outcome State Fault Refusal := perform (nextAction s) (takeTurn s)

/-- `s` with the table word `w` of `nbits` bits placed where the host issues its next item (logs 6, 10). -/
def State.withFetchWord (s : State) (nbits w : Nat) : State := placeWord (BitVec.ofNat 20 (w % 2 ^ nbits)) s

end Sys2Proof.Machine
end

