-- ==== Sys2Proof/Machine/Asm.lean ====
section
/-! DEFINITION. The spec's assembler: its lines, their text and the host items they stand for (30_encoding.md R75, R76). -/

namespace Sys2Proof.Machine

open Sys2Proof

/-- The registers a read line may name (R75). -/
inductive AsmReg where
  | ctrl
  | status
  | tcnt
  | icr
  | htt
  | dist
  | cmd
  | r7
  deriving DecidableEq, Repr

/-- The address of a named register (20_memory.md R57). -/
def AsmReg.addr : AsmReg → RegAddr
  | .ctrl => 0#3
  | .status => 1#3
  | .tcnt => 2#3
  | .icr => 3#3
  | .htt => 4#3
  | .dist => 5#3
  | .cmd => 6#3
  | .r7 => 7#3

/-- A line of the assembler (R75), a host action (60_exceptions.md R111) or a pseudo-instruction (R76). -/
inductive AsmLine where
  | rd (r : AsmReg)
  | nop
  | icuInit (cs : BitVec 3) (e : Bool)
  | icuSetcb (b : Bool)
  | icuSetedge (e : Bool)
  | icuClear
  | icuDeinit
  | usInit
  | usRead
  | wr (a : RegAddr) (d : Word)
  | sei
  | cli
  | icuReadCapture
  | usReadDistance
  | icuSetcbMasked (b : Bool)
  deriving DecidableEq, Repr

/-- The host items a line stands for (R75, R76). -/
def assemble : AsmLine → List HostItem
  | .rd r => [.trans (mkTx 0#1 r.addr 0#16)]
  | .nop => [.trans (encode .nop)]
  | .icuInit cs e => [.trans (encode (.icuInit cs e))]
  | .icuSetcb b => [.trans (encode (.icuSetCallback b))]
  | .icuSetedge e => [.trans (encode (.icuSetEdge e))]
  | .icuClear => [.trans (encode .icuClearCounter)]
  | .icuDeinit => [.trans (encode .icuDeinit)]
  | .usInit => [.trans (encode .usInit)]
  | .usRead => [.trans (encode .usReadDistance)]
  | .wr a d => [.trans (mkTx 1#1 a d)]
  | .sei => [.sei]
  | .cli => [.cli]
  | .icuReadCapture => [.trans (mkTx 0#1 AsmReg.icr.addr 0#16)]
  | .usReadDistance => [.trans (encode .usReadDistance), .trans (mkTx 0#1 AsmReg.dist.addr 0#16)]
  | .icuSetcbMasked b => [.cli, .trans (encode (.icuSetCallback b)), .sei]

/-- The name of a register in a read line (R75). -/
def AsmReg.text : AsmReg → String
  | .ctrl => "ctrl"
  | .status => "status"
  | .tcnt => "tcnt"
  | .icr => "icr"
  | .htt => "htt"
  | .dist => "dist"
  | .cmd => "cmd"
  | .r7 => "r7"

/-- The name of a clock source (R75). -/
def csText (cs : BitVec 3) : String :=
  if cs = 0#3 then "stopped"
  else if cs = 1#3 then "div1"
  else if cs = 2#3 then "div8"
  else if cs = 3#3 then "div64"
  else if cs = 4#3 then "div256"
  else if cs = 5#3 then "div1024"
  else if cs = 6#3 then "ext_fall"
  else "ext_rise"

/-- The name of an edge (R75). -/
def edgeText (e : Bool) : String := if e then "rising" else "falling"

/-- The name of a callback (R75). -/
def callbackText (b : Bool) : String := if b then "fsm" else "none"

/-- The text of a line (R75, R76). Raw data is written in decimal. -/
def AsmLine.text : AsmLine → String
  | .rd r => "rd " ++ r.text
  | .nop => "nop"
  | .icuInit cs e => "icu.init cs=" ++ csText cs ++ ", edge=" ++ edgeText e
  | .icuSetcb b => "icu.setcb " ++ callbackText b
  | .icuSetedge e => "icu.setedge " ++ edgeText e
  | .icuClear => "icu.clear"
  | .icuDeinit => "icu.deinit"
  | .usInit => "us.init"
  | .usRead => "us.read"
  | .wr a d => "wr " ++ toString a.toNat ++ ", " ++ toString d.toNat
  | .sei => "sei"
  | .cli => "cli"
  | .icuReadCapture => "icu.read_capture"
  | .usReadDistance => "us.read_distance"
  | .icuSetcbMasked b => "icu.setcb_masked " ++ callbackText b

end Sys2Proof.Machine
end

