-- ==== Sys2Proof/Safety.lean ====
section
/-! DEFINITION. What the spec says holds at every step boundary (10_state.md R23, R38, 00_scope.md R9), and the runs and
the fairness its liveness claims rest on (60_exceptions.md R116). -/

namespace Sys2Proof.Machine

open Sys2Proof

/-- EC ∈ {0, 1} at every step boundary (10_state.md R23). -/
abbrev EcLegal (s : State) : Prop := s.ec = 0#2 ∨ s.ec = 1#2

/-- Every trigger pulse on record lasted TW, so at least 10 µs (41_ultrasonic.md R102, 10_state.md R38). -/
abbrev PulsesWide (s : State) : Prop :=
  ∀ e ∈ s.history, match e with
    | .trigPulse w _ => w = s.params.trigDelayUs ∧ 10 ≤ w

/-- Items 1 and 2 of 10_state.md R38: EC ∈ {0, 1}; EC = 0 with EDGE rising, EC = 1 with EDGE falling. R38 asks item 2
only where CB = 1; this is the stronger form, which the driver's operations keep too. -/
abbrev DriverInv (s : State) : Prop :=
  (s.ec = 0#2 ∧ s.edge = true) ∨ (s.ec = 1#2 ∧ s.edge = false)

/-- The actions R38 allows a host that keeps the invariants to provoke: all but ICU_INIT, ICU_SET_EDGE and ICU_DEINIT;
and no reset, which starts a new run. -/
def keepsDriverInv (a : Action) : Bool :=
  match a with
  | .instr (.icuInit _ _) => false
  | .instr (.icuSetEdge _) => false
  | .instr .icuDeinit => false
  | .reset _ _ => false
  | _ => true

/-- `k` steps from a state, stopping at the first that answers no next state. The host's `Host.Core.run` of this machine,
on the machine's own types. -/
def runFor : Nat → State → Host.Outcome State Fault Refusal
  | 0, s => .next s
  | k + 1, s =>
    match step s with
    | .next t => runFor k t
    | .fault f => .fault f
    | .refused r => .refused r

/-- A run under an infinite schedule: at each point the schedule's agent moves. -/
def IsRunUnder (sched : Nat → Turn) (σ : Nat → State) : Prop :=
  ∀ n, step { σ n with turns := [sched n] } = .next (σ (n + 1))

/-- Weak fairness for the two service steps: a step that stays enabled is eventually taken (60_exceptions.md R116).
A hypothesis where a claim needs it (log 11). -/
def WeaklyFair (sched : Nat → Turn) (σ : Nat → State) : Prop :=
  (∀ n, (∀ m, n ≤ m → svcEnterEnabled (σ m) = true) → ∃ m, n ≤ m ∧ sched m = .svcEnter) ∧
  (∀ n, (∀ m, n ≤ m → svcRunEnabled (σ m) = true) → ∃ m, n ≤ m ∧ sched m = .svcRun)

end Sys2Proof.Machine
end

