-- ==== Sys2Proof/Certificates/Slice0/Obligations.lean ====
section
/-! DEFINITION. The statements for the provers. Each docstring names the rule of spec/ it formalises. -/

open Sys2Proof Sys2Proof.Machine

/-! Encoding -/

/-- Words written out in spec/95_test_vectors.md stand for the instructions it names. -/
def Obligations.SpecWordsDecode : Prop :=
  decode 0x00000#20 = .instr (.rdCtrl 0x0000#16) ∧
  decode 0x3FFFF#20 = .instr (.rdIcr 0xFFFF#16) ∧
  decode 0x70000#20 = .instr (.rdZero 7#3 0x0000#16) ∧
  decode 0xE0000#20 = .instr .nop ∧
  decode 0xE100A#20 = .instr (.icuInit 2#3 true) ∧
  decode 0xE2001#20 = .instr (.icuSetCallback true) ∧
  decode 0xE3008#20 = .instr (.icuSetEdge true) ∧
  decode 0xE5000#20 = .instr .icuDeinit ∧
  decode 0xE8000#20 = .instr .usInit ∧
  decode 0xE9000#20 = .instr .usReadDistance ∧
  decode 0xA1234#20 = .instr (.wrIgnoredLow 2#3 0x1234#16) ∧
  decode 0xE7000#20 = .reserved (.opcode 7#4) ∧
  decode 0xE1FFF#20 = .reserved (.operandBits 1#4)

/-- Decode and encode agree on every well-formed instruction, with every operand at every value its field admits. -/
def Obligations.DecodeInvertsEncode : Prop :=
  ∀ i : Instr, i.wellFormed = true → decode (encode i) = .instr i

/-- No bit of a word that is an instruction is dropped: its instruction is well formed and encodes to that word. -/
def Obligations.EncodeInvertsDecode : Prop :=
  ∀ (t : TxWord) (i : Instr), decode t = .instr i → i.wellFormed = true ∧ encode i = t

/-- R63: the table row by row; a word that is an instruction selects that instruction's row and no other, a reserved word
selects none, a word that selects no row is a reserved command with W = 1 and A = 6; the bits `c`, `e` and `b` are where the encoding strings have
them, and in a row whose low 16 bits are all `x` no ignored bit matters. -/
def Obligations.DecodeAgreesWithOpcodeTable : Prop :=
  opcodeTable =
    [⟨"RD_CTRL", 0x00000#20, 0xF0000#20⟩, ⟨"RD_STATUS", 0x10000#20, 0xF0000#20⟩, ⟨"RD_TCNT", 0x20000#20, 0xF0000#20⟩,
     ⟨"RD_ICR", 0x30000#20, 0xF0000#20⟩, ⟨"RD_HTT", 0x40000#20, 0xF0000#20⟩, ⟨"RD_DIST", 0x50000#20, 0xF0000#20⟩,
     ⟨"RD_ZERO", 0x60000#20, 0xE0000#20⟩, ⟨"NOP", 0xE0000#20, 0xFFFFF#20⟩, ⟨"ICU_INIT", 0xE1000#20, 0xFFFF0#20⟩] ++
    [⟨"ICU_SET_CALLBACK", 0xE2000#20, 0xFFFFE#20⟩, ⟨"ICU_SET_EDGE", 0xE3000#20, 0xFFFF7#20⟩,
     ⟨"ICU_CLEAR_COUNTER", 0xE4000#20, 0xFFFFF#20⟩, ⟨"ICU_DEINIT", 0xE5000#20, 0xFFFFF#20⟩,
     ⟨"US_INIT", 0xE8000#20, 0xFFFFF#20⟩, ⟨"US_READ_DISTANCE", 0xE9000#20, 0xFFFFF#20⟩] ++
    [⟨"WR_IGNORED", 0x80000#20, 0xC0000#20⟩, ⟨"WR_IGNORED", 0xC0000#20, 0xE0000#20⟩,
     ⟨"WR_IGNORED", 0xF0000#20, 0xF0000#20⟩] ∧
  (∀ (t : TxWord) (i : Instr), decode t = .instr i → opcodeTable.filter (fun r => r.selects t) = [i.row]) ∧
  (∀ (t : TxWord) (r : ReservedCommand), decode t = .reserved r → opcodeTable.filter (fun x => x.selects t) = []) ∧
  (∀ t : TxWord, opcodeTable.filter (fun r => r.selects t) = [] →
    (∃ r, decode t = .reserved r) ∧ txW t = 1#1 ∧ txA t = 6#3) ∧
  (∀ (r : OpcodeRow) (t : TxWord), r.selects t = true ↔ t &&& r.mask = r.pattern) ∧
  (∀ (t : TxWord) (cs : BitVec 3) (e : Bool), decode t = .instr (.icuInit cs e) →
    cs = t.extractLsb' 0 3 ∧ e = t.getLsbD 3) ∧
  (∀ (t : TxWord) (b : Bool), decode t = .instr (.icuSetCallback b) → b = t.getLsbD 0) ∧
  (∀ (t : TxWord) (e : Bool), decode t = .instr (.icuSetEdge e) → e = t.getLsbD 3) ∧
  (∀ (i j : Instr) (s : State), i.row = j.row → i.row.mask &&& 0x0FFFF#20 = 0#20 → exec i s = exec j s)

/-- R71: which words are reserved commands, and that the host's step for one changes nothing but that the host has
issued it. (R71 lets a model refuse them instead; this one does not, log 8.) -/
def Obligations.ReservedCommandsHaveNoEffect : Prop :=
  (∀ t : TxWord, (∃ r, decode t = .reserved r) ↔
    txW t = 1#1 ∧ txA t = 6#3 ∧
      (cmdOp (txD t) ∈ [0x6#4, 0x7#4, 0xA#4, 0xB#4, 0xC#4, 0xD#4, 0xE#4, 0xF#4] ∨
       (cmdOp (txD t) ∈ [0x0#4, 0x4#4, 0x5#4, 0x8#4, 0x9#4] ∧ (txD t).extractLsb' 0 12 ≠ 0#12) ∨
       (cmdOp (txD t) = 0x1#4 ∧ (txD t).extractLsb' 4 8 ≠ 0#8) ∨
       (cmdOp (txD t) = 0x2#4 ∧ (txD t).extractLsb' 1 11 ≠ 0#11) ∨
       (cmdOp (txD t) = 0x3#4 ∧ ((txD t).extractLsb' 4 8 ≠ 0#8 ∨ (txD t).extractLsb' 0 3 ≠ 0#3)))) ∧
  (∀ (s : State) (t : TxWord) (rest : List HostItem) (r : ReservedCommand),
    nextTurn s = .host → s.insvc = false → s.program = .trans t :: rest → decode t = .reserved r →
      step s = .next { takeTurn s with program := rest, index := s.index + 1 })

/-- R70: a write to any A ≠ 6 is an instruction that changes nothing; so is every form of the three WR_IGNORED rows; and
a host step that changes what a register of the window holds is a command's. -/
def Obligations.WritesOutsideCmdChangeNothing : Prop :=
  (∀ t : TxWord, txW t = 1#1 → txA t ≠ 6#3 → ∃ i, decode t = .instr i ∧ ∀ s : State, exec i s = .next s) ∧
  (∀ (a : RegAddr) (d : Word) (s : State), exec (.wrIgnoredLow a d) s = .next s) ∧
  (∀ (a : RegAddr) (d : Word) (s : State), exec (.wrIgnoredMid a d) s = .next s) ∧
  (∀ (d : Word) (s : State), exec (.wrIgnoredSeven d) s = .next s) ∧
  (∀ s t : State, nextTurn s = .host → step s = .next t →
    (ctrlWord t, statusWord t, t.tcnt, t.icr, t.htt, t.dist) ≠ (ctrlWord s, statusWord s, s.tcnt, s.icr, s.htt, s.dist) →
      ∃ i, nextAction s = .instr i ∧ txW (encode i) = 1#1 ∧ txA (encode i) = 6#3)

/-- R68: the clock-source codes and `code(P)`, whose divisor is P. -/
def Obligations.ClockSourceCodes : Prop :=
  clockSource 0#3 = .stopped ∧ clockSource 1#3 = .cpuDiv 1 ∧ clockSource 2#3 = .cpuDiv 8 ∧
  clockSource 3#3 = .cpuDiv 64 ∧ clockSource 4#3 = .cpuDiv 256 ∧ clockSource 5#3 = .cpuDiv 1024 ∧
  clockSource 6#3 = .extFalling ∧ clockSource 7#3 = .extRising ∧
  csCode .div1 = 1#3 ∧ csCode .div8 = 2#3 ∧ csCode .div64 = 3#3 ∧ csCode .div256 = 4#3 ∧ csCode .div1024 = 5#3 ∧
  ∀ p : Prescaler, (clockSource (csCode p)).divisor = some p.toNat

/-! Bus reads -/

/-- R80: the encoding of RD_CTRL, what it returns bit by bit, that it changes nothing else, and the rule's example. -/
def Obligations.RdCtrlReturnsConfiguration : Prop :=
  (∀ t : TxWord, t &&& 0xF0000#20 = 0x00000#20 ↔ decode t = .instr (.rdCtrl (txD t))) ∧
  (∀ (d : Word) (s : State),
    exec (.rdCtrl d) s = .next { s with reads := s.reads ++ [ctrlWord s] } ∧
    (ctrlWord s).extractLsb' 0 3 = s.cs ∧ (ctrlWord s).getLsbD 3 = s.edge ∧ (ctrlWord s).getLsbD 4 = s.icie ∧
    (ctrlWord s).getLsbD 5 = s.cb ∧ (ctrlWord s).getLsbD 6 = s.trigOe ∧ (ctrlWord s).extractLsb' 7 9 = 0#9) ∧
  (∀ s t : State, s.params.prescaler = .div8 → exec .usInit s = .next t → ctrlWord t = 0x007A#16)

/-- R81: the encoding of RD_STATUS, what it returns bit by bit (IRQ = ICF AND ICIE), that it changes nothing else, that
the host issues it only while INSVC = 0, and the rule's example. -/
def Obligations.RdStatusReturnsFlags : Prop :=
  (∀ t : TxWord, t &&& 0xF0000#20 = 0x10000#20 ↔ decode t = .instr (.rdStatus (txD t))) ∧
  (∀ (d : Word) (s : State),
    exec (.rdStatus d) s = .next { s with reads := s.reads ++ [statusWord s] } ∧
    (statusWord s).getLsbD 0 = s.icf ∧ (statusWord s).getLsbD 1 = s.ready ∧ (statusWord s).extractLsb' 2 2 = s.ec ∧
    (statusWord s).getLsbD 4 = (s.icf && s.icie) ∧ (statusWord s).extractLsb' 5 11 = 0#11 ∧
    (EcLegal s → (statusWord s).getLsbD 3 = false)) ∧
  (∀ (d : Word) (s : State), nextAction s = .instr (.rdStatus d) → s.insvc = false) ∧
  (∀ s : State, s.icf = false → s.ready = true → s.ec = 0#2 → statusWord s = 0x0002#16)

/-- R82 to R86: the encodings of the data reads, what each returns, and that it changes nothing else; the count read
after k ticks is the old one plus k modulo 2^16; and what is read right after ICU_INIT, ICU_DEINIT, US_INIT, a capture, a
second-edge service and reset. -/
def Obligations.DataReadsReturnRegisters : Prop :=
  (∀ t : TxWord,
    (t &&& 0xF0000#20 = 0x20000#20 ↔ decode t = .instr (.rdTcnt (txD t))) ∧
    (t &&& 0xF0000#20 = 0x30000#20 ↔ decode t = .instr (.rdIcr (txD t))) ∧
    (t &&& 0xF0000#20 = 0x40000#20 ↔ decode t = .instr (.rdHtt (txD t))) ∧
    (t &&& 0xF0000#20 = 0x50000#20 ↔ decode t = .instr (.rdDist (txD t))) ∧
    (t &&& 0xE0000#20 = 0x60000#20 ↔ decode t = .instr (.rdZero (txA t) (txD t)))) ∧
  (∀ (a : RegAddr) (d : Word) (s : State),
    exec (.rdTcnt d) s = .next { s with reads := s.reads ++ [s.tcnt] } ∧
    exec (.rdIcr d) s = .next { s with reads := s.reads ++ [s.icr] } ∧
    exec (.rdHtt d) s = .next { s with reads := s.reads ++ [s.htt] } ∧
    exec (.rdDist d) s = .next { s with reads := s.reads ++ [s.dist] } ∧
    exec (.rdZero a d) s = .next { s with reads := s.reads ++ [0x0000#16] }) ∧
  (∀ (k : Nat) (s : State), ((tick^[k]) s).tcnt.toNat = (s.tcnt.toNat + k) % 2 ^ 16) ∧
  (∀ (cs : BitVec 3) (e : Bool) (s t : State), exec (.icuInit cs e) s = .next t →
    ((tick^[3]) t).tcnt = 3#16 ∧ t.icr = 0#16) ∧
  (∀ s t : State, exec .icuDeinit s = .next t ∨ exec .usInit s = .next t → t.icr = 0#16) ∧
  (∀ (d : Word) (s : State), exec (.rdIcr d) (capture s) = .next { capture s with reads := s.reads ++ [s.tcnt] }) ∧
  (∀ (d : Word) (s : State), s.cb = true → s.ec = 1#2 →
    exec (.rdHtt d) (svcRun s) = .next { svcRun s with reads := s.reads ++ [s.icr] }) ∧
  (∀ (p : Params) (echo : Bool),
    (State.resetWith p echo).htt = 0x0000#16 ∧ (State.resetWith p echo).dist = 0x0000#16)

/-- Only commands change DMCT's state: the host's step for any other word leaves all of it, the output history included,
and changes only what the host has observed, the host's position and the scheduling data. -/
def Obligations.OnlyCommandsChangeState : Prop :=
  ∀ (s : State) (w : TxWord) (rest : List HostItem),
    nextTurn s = .host → s.insvc = false → s.program = .trans w :: rest → ¬ (txW w = 1#1 ∧ txA w = 6#3) →
      ∃ t, step s = .next t ∧
        { t with reads := s.reads, program := s.program, index := s.index, turns := s.turns, drawn := s.drawn } = s ∧
        ((txW w = 1#1 ∧ t.reads = s.reads) ∨ (txW w = 0#1 ∧ ∃ v, t.reads = s.reads ++ [v]))

/-! ICU commands -/

/-- R87: NOP's word, that it changes nothing, and that a NOP with nonzero operand bits is a reserved command. -/
def Obligations.NopChangesNothing : Prop :=
  (∀ t : TxWord, decode t = .instr .nop ↔ t = 0xE0000#20) ∧ (∀ s : State, exec .nop s = .next s) ∧
  ∀ d : BitVec 12, d ≠ 0#12 → ∃ r, decode (mkTx 1#1 6#3 (0x0#4 ++ d)) = .reserved r

/-- R88: ICU_INIT's encoding and operands, its effect and frame, and the rule's example. -/
def Obligations.IcuInitConfiguresTimer : Prop :=
  (∀ t : TxWord, t &&& 0xFFFF0#20 = 0xE1000#20 ↔
    decode t = .instr (.icuInit (t.extractLsb' 0 3) (t.getLsbD 3))) ∧
  (∀ (cs : BitVec 3) (e : Bool) (s : State),
    exec (.icuInit cs e) s =
      .next { s with cs := cs, edge := e, tcnt := 0#16, icr := 0#16, icf := false, icie := true }) ∧
  (∀ (p : Params) (echo : Bool) (t : State),
    exec (.icuInit 2#3 true) (State.resetWith p echo) = .next t → ctrlWord t = 0x001A#16)

/-- R89: ICU_SET_CALLBACK's encoding and operand, its effect and frame; with CB = 0 a service still clears ICF on entry,
and its body only returns. -/
def Obligations.IcuSetCallbackInstallsHandle : Prop :=
  (∀ t : TxWord, t &&& 0xFFFFE#20 = 0xE2000#20 ↔ decode t = .instr (.icuSetCallback (t.getLsbD 0))) ∧
  (∀ (b : Bool) (s : State), exec (.icuSetCallback b) s = .next { s with cb := b }) ∧
  (∀ s t : State, exec (.icuSetCallback false) s = .next t → svcRun t = { t with insvc := false }) ∧
  (∀ s t : State, exec (.icuSetCallback false) s = .next t → nextTurn t = .svcEnter →
    t.icf = true → t.icie = true → t.gie = true → t.insvc = false →
      step t = .next { takeTurn t with icf := false, insvc := true })

/-- R90: ICU_SET_EDGE's encoding and operand, its effect and frame: no capture, ICF and the count unchanged, and the
level already on the echo pin is no edge afterwards. -/
def Obligations.IcuSetEdgeSwitchesPolarity : Prop :=
  (∀ t : TxWord, t &&& 0xFFFF7#20 = 0xE3000#20 ↔ decode t = .instr (.icuSetEdge (t.getLsbD 3))) ∧
  (∀ (e : Bool) (s : State), exec (.icuSetEdge e) s = .next { s with edge := e }) ∧
  (∀ (e : Bool) (s t : State), exec (.icuSetEdge e) s = .next t → s.edge = e → t = s) ∧
  (∀ (e : Bool) (s t : State), exec (.icuSetEdge e) s = .next t → echoSet s.echo t = t)

/-- R91: ICU_CLEAR_COUNTER's word, its effect and frame; a capture k ticks after it latches k modulo 2^16; with CS = 0 a
tick's turn leaves the count (that the turn of a disabled tick is used up is the model's choice, log 2). -/
def Obligations.IcuClearCounterZeroesCount : Prop :=
  (∀ t : TxWord, decode t = .instr .icuClearCounter ↔ t = 0xE4000#20) ∧
  (∀ s : State, exec .icuClearCounter s = .next { s with tcnt := 0#16 }) ∧
  (∀ (k : Nat) (s t : State), exec .icuClearCounter s = .next t → (capture ((tick^[k]) t)).icr.toNat = k % 2 ^ 16) ∧
  (∀ s : State, s.cs = 0#3 → nextTurn s = .tick → step s = .next (takeTurn s))

/-- R92: ICU_DEINIT's word, its effect and frame (ICF kept); afterwards no `SvcEnter` can fire, a falling edge still
latches 0 and sets ICF, and after US_INIT it leaves CTRL reading 0x0060. -/
def Obligations.IcuDeinitStopsTimer : Prop :=
  (∀ t : TxWord, decode t = .instr .icuDeinit ↔ t = 0xE5000#20) ∧
  (∀ s : State,
    exec .icuDeinit s =
      .next { s with cs := 0#3, edge := false, icie := false, tcnt := 0#16, icr := 0#16 }) ∧
  (∀ s t : State, exec .icuDeinit s = .next t → svcEnterEnabled t = false) ∧
  (∀ s t : State, exec .icuDeinit s = .next t → s.echo = true →
    echoSet false t = { t with echo := false, icr := 0#16, icf := true }) ∧
  (∀ s t u : State, exec .usInit s = .next t → exec .icuDeinit t = .next u → ctrlWord u = 0x0060#16)

/-! Ultrasonic commands and the converter -/

/-- R100: US_INIT's word, its effect and frame (READY, HTT and DIST kept), and the rule's example. -/
def Obligations.UsInitStartsDriver : Prop :=
  (∀ t : TxWord, decode t = .instr .usInit ↔ t = 0xE8000#20) ∧
  (∀ s : State,
    exec .usInit s =
      .next { s with
        cs := csCode s.params.prescaler, edge := true, tcnt := 0#16, icr := 0#16, icf := false, icie := true,
        cb := true, trigOe := true, ec := 0#2 }) ∧
  (∀ (p : Params) (echo : Bool) (t : State), p.prescaler = .div8 →
    exec .usInit (State.resetWith p echo) = .next t → ctrlWord t = 0x007A#16 ∧ statusWord t = 0x0000#16)

/-- R101, R102: US_READ_DISTANCE's word; it emits TrigPulse(TW, TRIG_OE), TW ≥ 10, and the line is low
at every step boundary; without a measurement nothing else
changes; with one, READY <- 0 and DIST <- (raw + Bias(raw)) mod 2^16; HTT = 0 gives 0; the rule's example. -/
def Obligations.UsReadDistanceTriggersAndConsumes : Prop :=
  (∀ t : TxWord, decode t = .instr .usReadDistance ↔ t = 0xE9000#20) ∧
  (∀ s : State, s.ready = false →
    exec .usReadDistance s =
      .next { s with history := s.history ++ [.trigPulse s.params.trigDelayUs s.trigOe] }) ∧
  (∀ s : State, s.ready = true →
    exec .usReadDistance s =
      .next { s with
        history := s.history ++ [.trigPulse s.params.trigDelayUs s.trigOe]
        ready := false
        dist := BitVec.ofNat 16
          (rawCm s.params s.htt.toNat + bias (rawCm s.params s.htt.toNat)) }) ∧
  (∀ s : State, 10 ≤ s.params.trigDelayUs ∧ triggerLine s = false) ∧
  (∀ s t : State, s.ready = true → s.htt = 0#16 → exec .usReadDistance s = .next t → t.dist = 0#16) ∧
  (∀ s t : State, s.params = Params.fixture → s.ready = true → s.htt = 3000#16 → s.trigOe = true →
    exec .usReadDistance s = .next t →
      t.dist = 26#16 ∧ t.ready = false ∧ t.history = s.history ++ [.trigPulse 10 true])

/-- R103: RawCm is the exact ceiling of the source's real formula, with one rounding at the end; and its form at the
fixture's parameters, which follows from the formula. -/
def Obligations.RawCmIsExactCeiling : Prop :=
  (∀ (p : Params) (h : Nat),
    (rawCm p h : ℤ) = ⌈((p.soundSpeed : ℚ) / 2) / (p.fCpu : ℚ) * (h : ℚ) * (p.prescaler.toNat : ℚ)⌉) ∧
  ∀ h : Nat, rawCm Params.fixture h = (343 * h + 39999) / 40000

/-- R104: the bias table, half-open intervals, and the boundary values the rule lists. -/
def Obligations.BiasTableIntervals : Prop :=
  (∀ r : Nat,
    (r < 59 → bias r = 0) ∧ (59 ≤ r ∧ r < 129 → bias r = 1) ∧ (129 ≤ r ∧ r < 199 → bias r = 2) ∧
    (199 ≤ r ∧ r < 270 → bias r = 3) ∧ (270 ≤ r ∧ r < 343 → bias r = 4) ∧ (343 ≤ r → bias r = 5) ∧
    correct r = r + bias r) ∧
  [58, 59, 128, 129, 198, 199, 269, 270, 342, 343, 400].map correct =
    [58, 60, 129, 131, 200, 202, 272, 274, 346, 348, 405]

/-- R105: what is stored is the corrected distance modulo 2^16; at the fixture the largest is 567, which fits; at
P = 1024 and 16 MHz the largest raw value is 71932 and 6401 is stored. -/
def Obligations.StoredDistanceWraps : Prop :=
  (∀ s t : State, s.ready = true → exec .usReadDistance s = .next t →
    t.dist.toNat = (rawCm s.params s.htt.toNat + bias (rawCm s.params s.htt.toNat)) % 2 ^ 16) ∧
  (∀ h : Word, (distanceWord Params.fixture h).toNat = correct (rawCm Params.fixture h.toNat) ∧
    correct (rawCm Params.fixture h.toNat) ≤ 567) ∧
  distanceWord Params.fixture 0xFFFF#16 = 567#16 ∧
  rawCm { Params.fixture with prescaler := .div1024 } 65535 = 71932 ∧
  distanceWord { Params.fixture with prescaler := .div1024 } 0xFFFF#16 = 6401#16

/-- A longer pulse never gives a shorter corrected distance, before the store into 16 bits. -/
def Obligations.CorrectedDistanceMonotone : Prop :=
  ∀ (p : Params) (h k : Nat), h ≤ k → correct (rawCm p h) ≤ correct (rawCm p k)

/-- R133: US_INIT selects the divisor P; the converter uses P and never the divisor ICU_INIT selected. -/
def Obligations.ConverterUsesBuildPrescaler : Prop :=
  (∀ s t : State, exec .usInit s = .next t →
    t.cs = csCode s.params.prescaler ∧ (clockSource t.cs).divisor = some s.params.prescaler.toNat) ∧
  (∀ (s t u v : State) (cs : BitVec 3) (e : Bool),
    exec .usReadDistance s = .next t → exec (.icuInit cs e) s = .next u → exec .usReadDistance u = .next v →
      v.dist = t.dist)

/-! Timer and capture -/

/-- R95: a tick's turn counts modulo 2^16 when CS ≠ 0, changes nothing else, and is no step when CS = 0. -/
def Obligations.TickCountsWhenClocked : Prop :=
  (∀ s : State, nextTurn s = .tick → s.cs ≠ 0#3 →
    ∃ c : Word, step s = .next { takeTurn s with tcnt := c } ∧ c.toNat = (s.tcnt.toNat + 1) % 2 ^ 16) ∧
  (∀ s : State, nextTurn s = .tick → s.cs = 0#3 → step s = .next (takeTurn s)) ∧
  (∀ s : State, nextTurn s = .tick → s.cs ≠ 0#3 → s.tcnt = 0xFFFF#16 →
    step s = .next { takeTurn s with tcnt := 0x0000#16 })

/-- R96, R97: an echo step sets the pin; exactly a transition that matches EDGE latches TCNT into ICR and sets ICF, in
the same step, whatever CS, ICIE, CB, GIE and INSVC are; nothing else changes. -/
def Obligations.EchoEdgeCaptures : Prop :=
  ∀ (s : State) (v : Bool), nextTurn s = .echoSet v →
    (((s.echo = false ∧ v = true ∧ s.edge = true) ∨ (s.echo = true ∧ v = false ∧ s.edge = false)) →
      step s = .next { takeTurn s with echo := v, icr := s.tcnt, icf := true }) ∧
    (¬ ((s.echo = false ∧ v = true ∧ s.edge = true) ∨ (s.echo = true ∧ v = false ∧ s.edge = false)) →
      step s = .next { takeTurn s with echo := v })

/-- A capture learns nothing of the masks and the clock: two states that agree on ECHO, EDGE, TCNT, ICR and ICF still
agree on ECHO, ICR and ICF after the same echo step. -/
def Obligations.CaptureIgnoresMasks : Prop :=
  ∀ (s t s' t' : State) (v : Bool), nextTurn s = .echoSet v → nextTurn t = .echoSet v →
    s.echo = t.echo → s.edge = t.edge → s.tcnt = t.tcnt → s.icr = t.icr → s.icf = t.icf →
    step s = .next s' → step t = .next t' →
      s'.echo = t'.echo ∧ s'.icr = t'.icr ∧ s'.icf = t'.icf

/-- The spec's inference R98 ("[derived: from rule R97 and 60_exceptions.md rule R112]"): a capture
while ICF = 1 overwrites ICR, one service follows and reads the newer count; a capture during a service is read by that
service's second edge and is serviced once more. -/
def Obligations.LostCaptureReadsNewerCount : Prop :=
  (∀ (s : State) (rest : List Turn),
    s.turns = .echoSet false :: .svcEnter :: .svcRun :: .svcEnter :: rest →
    s.icf = true → s.echo = true → s.edge = false → s.icie = true → s.gie = true → s.insvc = false →
    s.cb = true → s.ec = 1#2 →
      ∃ t₁ t, step s = .next t₁ ∧ t₁.icr = s.tcnt ∧ t₁.icf = true ∧
        runFor 4 s = .next t ∧ t.htt = s.tcnt ∧ t.icf = false ∧ t.insvc = false) ∧
  (∀ (s : State) (rest : List Turn),
    s.turns = .echoSet false :: .svcRun :: .svcEnter :: rest →
    s.insvc = true → s.echo = true → s.edge = false → s.icie = true → s.gie = true → s.cb = true → s.ec = 1#2 →
      ∃ t₂ t, runFor 2 s = .next t₂ ∧ t₂.htt = s.tcnt ∧ t₂.icf = true ∧ t₂.insvc = false ∧
        runFor 3 s = .next t ∧ t.icf = false ∧ t.insvc = true)

/-! The interrupt: entry, body and return, the held host, GIE -/

/-- R112: `SvcEnter` fires exactly when ICF = ICIE = GIE = 1 and INSVC = 0; it clears ICF, sets INSVC, saves and changes
nothing else. -/
def Obligations.SvcEnterTakesInterrupt : Prop :=
  ∀ s : State, nextTurn s = .svcEnter →
    (s.icf = true ∧ s.icie = true ∧ s.gie = true ∧ s.insvc = false →
      step s = .next { takeTurn s with icf := false, insvc := true }) ∧
    (¬ (s.icf = true ∧ s.icie = true ∧ s.gie = true ∧ s.insvc = false) → step s = .next (takeTurn s))

/-- R113, R106: `SvcRun` fires exactly when INSVC = 1; with CB = 0 it only returns, with CB = 1 it takes the branch
of the old EC (none at 2 and 3, which the spec calls unreachable) and returns. -/
def Obligations.SvcRunAdvancesMeasurement : Prop :=
  ∀ s : State, nextTurn s = .svcRun →
    (s.insvc = false → step s = .next (takeTurn s)) ∧
    (s.insvc = true → s.cb = false → step s = .next { takeTurn s with insvc := false }) ∧
    (s.insvc = true → s.cb = true → s.ec = 0#2 →
      step s = .next { takeTurn s with ec := 1#2, tcnt := 0#16, edge := false, insvc := false }) ∧
    (s.insvc = true → s.cb = true → s.ec = 1#2 →
      step s = .next { takeTurn s with htt := s.icr, edge := true, ready := true, ec := 0#2, insvc := false }) ∧
    (s.insvc = true → s.cb = true → s.ec = 2#2 ∨ s.ec = 3#2 → step s = .next { takeTurn s with insvc := false })

/-- R114: while INSVC = 1 the host takes no step, whatever its next item; ticks, echo steps and `SvcRun` stay enabled,
and `SvcRun` lifts the hold. -/
def Obligations.HostHeldDuringService : Prop :=
  ∀ s : State, s.insvc = true →
    (nextTurn s = .host → step s = .next (takeTurn s)) ∧
    (nextTurn s = .tick → s.cs ≠ 0#3 → nextAction s = .tick) ∧
    (∀ v, nextTurn s = .echoSet v → nextAction s = .echoSet v) ∧
    (nextTurn s = .svcRun → ∃ t, step s = .next t ∧ t.insvc = false)

/-- R111: `sei` and `cli` are one host step each and change GIE and the host's position alone; they are not enabled while
INSVC = 1; GIE resets to 0; `SvcEnter` does not change it. -/
def Obligations.HostDrivesGie : Prop :=
  (∀ (s : State) (rest : List HostItem), nextTurn s = .host → s.insvc = false → s.program = .sei :: rest →
    step s = .next { takeTurn s with gie := true, program := rest, index := s.index + 1 }) ∧
  (∀ (s : State) (rest : List HostItem), nextTurn s = .host → s.insvc = false → s.program = .cli :: rest →
    step s = .next { takeTurn s with gie := false, program := rest, index := s.index + 1 }) ∧
  (∀ s : State, s.insvc = true → nextTurn s = .host → step s = .next (takeTurn s)) ∧
  State.reset.gie = false ∧
  (∀ s t : State, nextTurn s = .svcEnter → step s = .next t → t.gie = s.gie)

/-! Each register after one step: who writes it, with what, and that nothing else does -/

/-- R21: ICF after any step. -/
def Obligations.IcfAfterStep : Prop :=
  ∀ s t : State, step s = .next t →
    t.icf =
      match nextAction s with
      | .echoSet v => s.icf || (decide (s.echo ≠ v) && decide (s.edge = v))
      | .svcEnter => false
      | .instr (.icuInit _ _) => false
      | .instr .usInit => false
      | .reset _ _ => false
      | _ => s.icf

/-- R22: READY after any step. -/
def Obligations.ReadyAfterStep : Prop :=
  ∀ s t : State, step s = .next t →
    t.ready =
      match nextAction s with
      | .svcRun => s.ready || (s.cb && decide (s.ec = 1#2))
      | .instr .usReadDistance => false
      | .reset _ _ => false
      | _ => s.ready

/-- EC after any step (10_state.md R23's writers), and the spec's inference there, that EC ∈ {0, 1} after it wherever it
was before. -/
def Obligations.EcAfterStep : Prop :=
  ∀ s t : State, step s = .next t →
    t.ec =
        (match nextAction s with
        | .svcRun => if s.cb = true ∧ s.ec = 0#2 then 1#2 else if s.cb = true ∧ s.ec = 1#2 then 0#2 else s.ec
        | .instr .usInit => 0#2
        | .reset _ _ => 0#2
        | _ => s.ec) ∧
      (EcLegal s → EcLegal t)

/-- R25: TCNT after any step. -/
def Obligations.TcntAfterStep : Prop :=
  ∀ s t : State, step s = .next t →
    t.tcnt =
      match nextAction s with
      | .tick => s.tcnt + 1#16
      | .svcRun => if s.cb = true ∧ s.ec = 0#2 then 0#16 else s.tcnt
      | .instr .icuClearCounter => 0#16
      | .instr (.icuInit _ _) => 0#16
      | .instr .icuDeinit => 0#16
      | .instr .usInit => 0#16
      | .reset _ _ => 0#16
      | _ => s.tcnt

/-- R26: ICR after any step. -/
def Obligations.IcrAfterStep : Prop :=
  ∀ s t : State, step s = .next t →
    t.icr =
      match nextAction s with
      | .echoSet v => if s.echo ≠ v ∧ s.edge = v then s.tcnt else s.icr
      | .instr (.icuInit _ _) => 0#16
      | .instr .icuDeinit => 0#16
      | .instr .usInit => 0#16
      | .reset _ _ => 0#16
      | _ => s.icr

/-- HTT after any step (10_state.md R27's writer, and reset); and, of R106, that the step that writes it sets READY too. -/
def Obligations.HttAfterStep : Prop :=
  ∀ s t : State, step s = .next t →
    t.htt =
        (match nextAction s with
        | .svcRun => if s.cb = true ∧ s.ec = 1#2 then s.icr else s.htt
        | .reset _ _ => 0#16
        | _ => s.htt) ∧
      (nextAction s = .svcRun → t.htt ≠ s.htt → t.ready = true)

/-- R28: DIST after any step. -/
def Obligations.DistAfterStep : Prop :=
  ∀ s t : State, step s = .next t →
    t.dist =
      match nextAction s with
      | .instr .usReadDistance =>
        if s.ready = true then
          BitVec.ofNat 16 (rawCm s.params s.htt.toNat + bias (rawCm s.params s.htt.toNat))
        else s.dist
      | .reset _ _ => 0#16
      | _ => s.dist

/-- R14: the fields of CTRL after any step, each written by the writers its row of the layout names and no other. -/
def Obligations.CtrlFieldsAfterStep : Prop :=
  ∀ s t : State, step s = .next t →
    t.cs =
        (match nextAction s with
        | .instr (.icuInit cs _) => cs
        | .instr .icuDeinit => 0#3
        | .instr .usInit => csCode s.params.prescaler
        | .reset _ _ => 0#3
        | _ => s.cs) ∧
      t.edge =
        (match nextAction s with
        | .instr (.icuInit _ e) => e
        | .instr (.icuSetEdge e) => e
        | .instr .icuDeinit => false
        | .instr .usInit => true
        | .svcRun => if s.cb = true ∧ s.ec = 0#2 then false else if s.cb = true ∧ s.ec = 1#2 then true else s.edge
        | .reset _ _ => false
        | _ => s.edge) ∧
      t.icie =
        (match nextAction s with
        | .instr (.icuInit _ _) => true
        | .instr .icuDeinit => false
        | .instr .usInit => true
        | .reset _ _ => false
        | _ => s.icie) ∧
      t.cb =
        (match nextAction s with
        | .instr (.icuSetCallback b) => b
        | .instr .usInit => true
        | .reset _ _ => false
        | _ => s.cb) ∧
      t.trigOe =
        (match nextAction s with
        | .instr .usInit => true
        | .reset _ _ => false
        | _ => s.trigOe)

/-- The host's observation after any step (10_state.md R36). The output history: US_READ_DISTANCE appends one
TrigPulse(TW, TRIG_OE), nothing else appends anything, nothing is ever removed within a run. The read data: each read
appends what it returns. That the read data stand in a list which a reset empties is the model's choice (logs 5, 7). -/
def Obligations.HistoryAfterStep : Prop :=
  ∀ s t : State, step s = .next t →
    t.history =
        (match nextAction s with
        | .instr .usReadDistance => s.history ++ [.trigPulse s.params.trigDelayUs s.trigOe]
        | .reset _ _ => []
        | _ => s.history) ∧
      t.reads =
        match nextAction s with
        | .instr (.rdCtrl _) => s.reads ++ [ctrlWord s]
        | .instr (.rdStatus _) => s.reads ++ [statusWord s]
        | .instr (.rdTcnt _) => s.reads ++ [s.tcnt]
        | .instr (.rdIcr _) => s.reads ++ [s.icr]
        | .instr (.rdHtt _) => s.reads ++ [s.htt]
        | .instr (.rdDist _) => s.reads ++ [s.dist]
        | .instr (.rdZero _ _) => s.reads ++ [0x0000#16]
        | .reset _ _ => []
        | _ => s.reads

/-- The hidden flag and the inputs after any step: INSVC is set by `SvcEnter` alone, from 0, and cleared by `SvcRun`; the
echo line alone moves ECHO; the host alone drives GIE. -/
def Obligations.ServiceFlagAndInputsAfterStep : Prop :=
  ∀ s t : State, step s = .next t →
    t.insvc =
        (match nextAction s with
        | .svcEnter => true
        | .svcRun => false
        | .reset _ _ => false
        | _ => s.insvc) ∧
      t.echo =
        (match nextAction s with
        | .echoSet v => v
        | .reset e _ => e
        | _ => s.echo) ∧
      t.gie =
        (match nextAction s with
        | .driveGie v => v
        | .reset _ _ => false
        | _ => s.gie) ∧
      (nextAction s = .svcEnter → s.insvc = false)

/-- The host's position after any step: it advances by exactly one for each transaction or host action (10_state.md R34),
and nothing else changes it within a run; what is left of the program is its tail. That a reset sets the position to 0 and
brings the new run's program is the model's choice (logs 6, 7). -/
def Obligations.HostPositionAfterStep : Prop :=
  ∀ s t : State, step s = .next t →
    (t.index, t.program) =
      match nextAction s with
      | .instr _ => (s.index + 1, s.program.tail)
      | .reserved _ => (s.index + 1, s.program.tail)
      | .driveGie _ => (s.index + 1, s.program.tail)
      | .reset _ p => (0, p)
      | _ => (s.index, s.program)

/-- The build-time parameters do not change while the model runs. -/
def Obligations.ParametersNeverChange : Prop :=
  ∀ s t : State, step s = .next t → t.params = s.params

/-! Invariants and reset -/

/-- Every step keeps EC ∈ {0, 1} and the record of trigger pulses, each TW wide and at least 10 µs. -/
def Obligations.StepKeepsLegalState : Prop :=
  ∀ s t : State, EcLegal s ∧ PulsesWide s → step s = .next t → EcLegal t ∧ PulsesWide t

/-- The invariant of StepKeepsLegalState holds after reset. -/
def Obligations.ResetIsLegal : Prop :=
  ∀ (p : Params) (echo : Bool), EcLegal (State.resetWith p echo) ∧ PulsesWide (State.resetWith p echo)

/-- R38: US_INIT establishes EC = 0 with EDGE rising; every step but one of ICU_INIT, ICU_SET_EDGE, ICU_DEINIT or a reset
keeps items 1 and 2; and HTT while READY = 1 is what the most recent second-edge service read from ICR. -/
def Obligations.DriverInvariantKept : Prop :=
  (∀ s t : State, nextAction s = .instr .usInit → step s = .next t → DriverInv t) ∧
  (∀ s t : State, DriverInv s → keepsDriverInv (nextAction s) = true → step s = .next t →
    DriverInv t ∧
    (t.ready = true → nextAction s ≠ .svcRun ∨ s.cb = false ∨ s.ec = 0#2 → s.ready = true ∧ t.htt = s.htt) ∧
    (nextAction s = .svcRun → s.cb = true → s.ec = 1#2 → t.ready = true ∧ t.htt = s.icr))

/-- A host whose program provokes none of ICU_INIT, ICU_SET_EDGE and ICU_DEINIT keeps the driver's invariant for ever:
after any number of scheduled steps without a reset. -/
def Obligations.DriverInvariantForEver : Prop :=
  ∀ (k : Nat) (s t : State), DriverInv s → k ≤ s.turns.length →
    (∀ e p, Turn.reset e p ∉ s.turns) →
    (∀ item ∈ s.program, keepsDriverInv (itemAction s.params item) = true) →
    runFor k s = .next t → DriverInv t

/-- R37: the reset value of every piece of state; ECHO is the draw. -/
def Obligations.ResetValues : Prop :=
  State.reset = State.resetWith Config.params Config.echoReset ∧
  ∀ (p : Params) (echo : Bool),
    let s := State.resetWith p echo
    s.cs = 0#3 ∧ s.edge = false ∧ s.icie = false ∧ s.cb = false ∧ s.trigOe = false ∧ s.icf = false ∧
    s.ready = false ∧ s.ec = 0#2 ∧ s.tcnt = 0#16 ∧ s.icr = 0#16 ∧ s.htt = 0#16 ∧ s.dist = 0#16 ∧
    s.insvc = false ∧ s.gie = false ∧ s.echo = echo ∧ s.history = []

/-- The spec's inference R126 ("[derived: from 10_state.md rule R37, 40_icu.md rule R97 and 60_exceptions.md rule R112]"):
right after reset no tick and no service can fire, a falling edge latches 0 and sets ICF, US_READ_DISTANCE leaves
DIST = 0, and the driver's invariants are not yet in force. -/
def Obligations.FreshResetBehaviour : Prop :=
  ∀ (p : Params) (echo : Bool) (turns : List Turn),
    let s := { State.resetWith p echo with turns := turns }
    (nextTurn s = .tick → step s = .next (takeTurn s)) ∧
    (nextTurn s = .svcEnter → step s = .next (takeTurn s)) ∧
    (echo = true → nextTurn s = .echoSet false →
      step s = .next { takeTurn s with echo := false, icr := 0#16, icf := true }) ∧
    (∃ t, exec .usReadDistance s = .next t ∧ t.dist = 0#16) ∧
    ¬ DriverInv s

/-- R125: a reset during a run puts every piece of state at its reset value with the draw of that reset. That the
parameters, the new run's program and the scheduling data come from outside is the model's choice (log 7). -/
def Obligations.ResetDuringRun : Prop :=
  ∀ (s : State) (echo : Bool) (program : List HostItem), nextTurn s = .reset echo program →
    step s = .next { State.resetWith s.params echo with
      program := program, turns := (takeTurn s).turns, drawn := (takeTurn s).drawn }

/-! The step as a whole -/

/-- When the word the host issues next decodes to an instruction, one step is exec of it at the state in which the turn
is used up and the host's position has advanced. -/
def Obligations.StepRunsDecodedInstruction : Prop :=
  ∀ (s : State) (w : TxWord) (i : Instr) (rest : List HostItem),
    nextTurn s = .host → s.insvc = false → s.program = .trans w :: rest → decode w = .instr i →
      step s = exec i { takeTurn s with program := rest, index := s.index + 1 }

/-- R108: every instruction completes; so does every step, but one in which the host makes a mapped access that does not
cover exactly one whole register, which is refused (20_memory.md R53, R54). -/
def Obligations.EveryStepCompletes : Prop :=
  (∀ (i : Instr) (s : State), ∃ t, exec i s = .next t) ∧
  (∀ s : State,
    (∃ t, step s = .next t) ∨
    (step s = .refused .partialRegisterAccess ∧ nextTurn s = .host ∧ s.insvc = false ∧
      ∃ m rest, s.program = .mapped m :: rest ∧ mappedTx s.params.dmctBase m = none))

/-- R53, R54: in a byte-addressed mapping the whole-register access at DMCT_BASE + 2A is the transaction of register A,
low byte first, and the host's step for it is that transaction's; every other access is refused. Accepting whole-register
accesses is the model's choice (log 9). -/
def Obligations.MappedAccessesCoverOneRegister : Prop :=
  (∀ (base : Nat) (a : RegAddr), mappedTx base (.load (base + 2 * a.toNat) 2) = some (mkTx 0#1 a 0#16)) ∧
  (∀ (base : Nat) (a : RegAddr) (v : Word),
    mappedTx base (.store (base + 2 * a.toNat) [lowByte v, highByte v]) = some (mkTx 1#1 a v)) ∧
  (∀ (base addr len : Nat) (t : TxWord), mappedTx base (.load addr len) = some t →
    len = 2 ∧ ∃ a : RegAddr, addr = base + 2 * a.toNat) ∧
  (∀ (base addr : Nat) (bytes : List Byte) (t : TxWord), mappedTx base (.store addr bytes) = some t →
    bytes.length = 2 ∧ ∃ a : RegAddr, addr = base + 2 * a.toNat) ∧
  (∀ (s : State) (m : MappedAccess) (rest : List HostItem),
    nextTurn s = .host → s.insvc = false → s.program = .mapped m :: rest → mappedTx s.params.dmctBase m = none →
      step s = .refused .partialRegisterAccess) ∧
  (∀ (s : State) (m : MappedAccess) (w : TxWord) (rest : List HostItem),
    nextTurn s = .host → s.insvc = false → s.program = .mapped m :: rest → mappedTx s.params.dmctBase m = some w →
      step s = step { s with program := .trans w :: rest })

/-- R9: a configuration is refused exactly when it lies outside the ranges; otherwise its values are kept. -/
def Obligations.IllegalConfigurationsRefused : Prop :=
  ∀ r : RawParams,
    ((∃ p, Params.ofRaw r = .ok p) ↔
      r.prescaler ∈ [1, 8, 64, 256, 1024] ∧ 0 < r.fCpu ∧ 0 < r.soundSpeed ∧ 10 ≤ r.trigDelayUs) ∧
    ∀ p, Params.ofRaw r = .ok p →
      p.prescaler.toNat = r.prescaler ∧ p.fCpu = r.fCpu ∧ p.soundSpeed = r.soundSpeed ∧
      p.trigDelayUs = r.trigDelayUs ∧ p.dmctBase = r.dmctBase

/-- Under weak fairness a service in progress always ends, so the host's hold is always lifted. -/
def Obligations.FairServiceLiftsHold : Prop :=
  ∀ (sched : Nat → Turn) (σ : Nat → State) (n : Nat),
    IsRunUnder sched σ → WeaklyFair sched σ → (σ n).insvc = true → ∃ m, n < m ∧ (σ m).insvc = false

/-- After ICU_DEINIT, while ICIE = 0, no step but ICU_INIT or US_INIT sets ICIE, and no step starts a service. -/
def Obligations.MaskedCaptureNeverServiced : Prop :=
  ∀ s t : State, s.icie = false → step s = .next t →
    (∀ cs e, nextAction s ≠ .instr (.icuInit cs e)) → nextAction s ≠ .instr .usInit →
      t.icie = false ∧ (t.insvc = true → s.insvc = true)

/-! Measurements -/

/-- One whole measurement, at any parameters and for an echo of any length n: rising edge, its service, n ticks, falling
edge, its service. HTT is n modulo 2^16, READY is set, the state machine is back where it began, and US_READ_DISTANCE then
stores the corrected distance of n modulo 2^16 ticks and clears READY. -/
def Obligations.MeasurementYieldsEchoWidth : Prop :=
  ∀ (s : State) (n : Nat) (rest : List Turn),
    s.turns =
      [.echoSet true, .svcEnter, .svcRun] ++ List.replicate n .tick ++ [.echoSet false, .svcEnter, .svcRun] ++ rest →
    s.ec = 0#2 → s.edge = true → s.cb = true → s.icie = true → s.gie = true → s.insvc = false → s.echo = false →
    s.cs ≠ 0#3 →
      ∃ t u, runFor (n + 6) s = .next t ∧
        t = { s with
          htt := BitVec.ofNat 16 n, icr := BitVec.ofNat 16 n, tcnt := BitVec.ofNat 16 n, ready := true,
          icf := false, turns := rest } ∧
        exec .usReadDistance t = .next u ∧ u.ready = false ∧
        u.dist.toNat = correct (rawCm s.params (n % 2 ^ 16)) % 2 ^ 16

/-- The pseudo-instruction `us.read_distance`: whatever ticks, echo edges and service steps fall between its two
transactions, `rd dist` returns the value `us.read` produced. -/
def Obligations.ReadDistanceReturnsItsOwnValue : Prop :=
  ∀ (s u : State) (between : List Turn) (rest : List Turn) (program : List HostItem),
    s.turns = .host :: between ++ .host :: rest → s.insvc = false →
    s.program = assemble .usReadDistance ++ program →
    (∀ x ∈ between, x ≠ .host ∧ ∀ e p, x ≠ .reset e p) →
    exec .usReadDistance s = .next u →
      ∃ t, runFor (between.length + 1) s = .next t ∧ t.dist = u.dist ∧
        (t.insvc = false → ∃ v, step t = .next v ∧ v.reads = s.reads ++ [u.dist] ∧ v.program = program)

/-- Edge-polarity alternation: after k callbacks from the driver's initial state, EC = k mod 2 and EDGE is rising exactly
when k is even. -/
def Obligations.EdgePolarityAlternates : Prop :=
  ∀ (k : Nat) (s : State), s.ec = 0#2 → s.edge = true →
    ((edgeProcess^[k]) s).ec.toNat = k % 2 ∧ ((edgeProcess^[k]) s).edge = decide (k % 2 = 0)
end

