-- ==== Sys2Proof/Laws/Decode.lean ====
section
/-! SUPPORT. The fields of a transaction word and of a command word, the decoder on a word built from its fields, and
the table's masks read as fields. -/

namespace Sys2Proof

/-- Bit by bit, a transaction word is its fields. -/
theorem getLsbD_mkTx (w : BitVec 1) (a : RegAddr) (d : Word) (i : Nat) :
    (mkTx w a d).getLsbD i =
      if i < 16 then d.getLsbD i else if i < 19 then a.getLsbD (i - 16) else w.getLsbD (i - 19) := by
  have h₁ := BitVec.getLsbD_append (x := w ++ a) (y := d) (i := i)
  have h₂ := BitVec.getLsbD_append (x := w) (y := a) (i := i - 16)
  refine h₁.trans ?_
  rw [h₂]
  by_cases h : i < 16
  · simp [h]
  · by_cases h' : i < 19
    · simp [h, h', show i - 16 < 3 by omega]
    · simp [h, h', show ¬ i - 16 < 3 by omega, show i - 16 - 3 = i - 19 by omega]

@[simp] theorem txW_mkTx (w : BitVec 1) (a : RegAddr) (d : Word) : txW (mkTx w a d) = w := by
  refine BitVec.eq_of_getLsbD_eq fun i hi => ?_
  simp [txW, getLsbD_mkTx, show ¬ 19 + i < 16 by omega, hi]

@[simp] theorem txA_mkTx (w : BitVec 1) (a : RegAddr) (d : Word) : txA (mkTx w a d) = a := by
  refine BitVec.eq_of_getLsbD_eq fun i hi => ?_
  simp [txA, getLsbD_mkTx, show 16 + i < 19 by omega, hi]

@[simp] theorem txD_mkTx (w : BitVec 1) (a : RegAddr) (d : Word) : txD (mkTx w a d) = d := by
  refine BitVec.eq_of_getLsbD_eq fun i hi => ?_
  simp [txD, getLsbD_mkTx, hi]

/-- A transaction word is its three fields. -/
theorem mkTx_fields (t : TxWord) : mkTx (txW t) (txA t) (txD t) = t := by
  refine BitVec.eq_of_getLsbD_eq fun i hi => ?_
  rw [getLsbD_mkTx]
  simp only [txW, txA, txD, BitVec.getLsbD_extractLsb']
  split
  · simp [*]
  · split
    · simp [show i - 16 < 3 by omega, show 16 + (i - 16) = i by omega]
    · simp [show i = 19 by omega]

/-- Two transaction words are equal when their fields are. -/
theorem tx_ext {t u : TxWord} (hw : txW t = txW u) (ha : txA t = txA u) (hd : txD t = txD u) : t = u := by
  rw [← mkTx_fields t, ← mkTx_fields u, hw, ha, hd]

/-- The decoder on a read (R61). -/
theorem decode_mkTx_read (a : RegAddr) (d : Word) : decode (mkTx 0#1 a d) = .instr (decodeRead a d) := by
  simp [decode]

/-- The decoder on a write outside CMD (R70). -/
theorem decode_mkTx_write (a : RegAddr) (d : Word) (h : a ≠ 6#3) :
    decode (mkTx 1#1 a d) = .instr (decodeIgnoredWrite a d) := by
  simp [decode, h]

/-- The decoder on a command (R62). -/
theorem decode_mkTx_command (d : Word) : decode (mkTx 1#1 6#3 d) = decodeCommand d := by
  simp [decode]

/-- A read's word gives its row back. -/
theorem encode_decodeRead (a : RegAddr) (d : Word) : encode (decodeRead a d) = mkTx 0#1 a d := by
  unfold decodeRead
  repeat' split
  all_goals simp [encode, *]

/-- An ignored write's word gives its row back. -/
theorem encode_decodeIgnoredWrite (a : RegAddr) (d : Word) : encode (decodeIgnoredWrite a d) = mkTx 1#1 a d := by
  unfold decodeIgnoredWrite
  repeat' split
  all_goals simp [encode, *]

/-- A mask applies field by field, which reads a row's mask and match of R63 as conditions on W, A and D. -/
theorem mkTx_and (w w' : BitVec 1) (a a' : RegAddr) (d d' : Word) :
    mkTx w a d &&& mkTx w' a' d' = mkTx (w &&& w') (a &&& a') (d &&& d') := by
  refine BitVec.eq_of_getLsbD_eq fun i _ => ?_
  rw [BitVec.getLsbD_and, getLsbD_mkTx, getLsbD_mkTx, getLsbD_mkTx]
  repeat' split
  all_goals simp

/-- Two words built from fields are equal exactly when the fields are. -/
theorem mkTx_inj {w w' : BitVec 1} {a a' : RegAddr} {d d' : Word} :
    mkTx w a d = mkTx w' a' d' ↔ w = w' ∧ a = a' ∧ d = d' := by
  refine ⟨fun h => ⟨?_, ?_, ?_⟩, fun ⟨hw, ha, hd⟩ => by rw [hw, ha, hd]⟩
  · simpa using congrArg txW h
  · simpa using congrArg txA h
  · simpa using congrArg txD h

/-- The masks of the table's read and write rows, as fields. -/
theorem maskF0000_fields : (0xF0000#20 : TxWord) = mkTx 1#1 7#3 0#16 := by decide

theorem maskE0000_fields : (0xE0000#20 : TxWord) = mkTx 1#1 6#3 0#16 := by decide

theorem maskC0000_fields : (0xC0000#20 : TxWord) = mkTx 1#1 4#3 0#16 := by decide

/-! A command's data word as four fields: OP = D[15:12], the bits D[11:4], the bit D[3] and the bits D[2:0]. -/

/-- A data word from these fields. -/
def cmdData (op : BitVec 4) (x : BitVec 8) (e : BitVec 1) (l : BitVec 3) : Word := op ++ x ++ e ++ l

/-- Bit by bit, a command's data word is its fields. -/
theorem getLsbD_cmdData (op : BitVec 4) (x : BitVec 8) (e : BitVec 1) (l : BitVec 3) (i : Nat) :
    (cmdData op x e l).getLsbD i =
      if i < 3 then l.getLsbD i else if i < 4 then e.getLsbD (i - 3)
      else if i < 12 then x.getLsbD (i - 4) else op.getLsbD (i - 12) := by
  have h₁ := BitVec.getLsbD_append (x := op ++ x ++ e) (y := l) (i := i)
  have h₂ := BitVec.getLsbD_append (x := op ++ x) (y := e) (i := i - 3)
  have h₃ := BitVec.getLsbD_append (x := op) (y := x) (i := i - 3 - 1)
  refine h₁.trans ?_
  rw [h₂, h₃]
  by_cases h : i < 3
  · simp [h]
  · by_cases h' : i < 4
    · simp [h, h', show i - 3 < 1 by omega]
    · by_cases h'' : i < 12
      · simp [h, h', h'', show ¬ i - 3 < 1 by omega, show i - 3 - 1 = i - 4 by omega, show i - 4 < 8 by omega]
      · simp [h, h', h'', show ¬ i - 3 < 1 by omega, show ¬ i - 3 - 1 < 8 by omega,
          show i - 3 - 1 - 8 = i - 12 by omega]

/-- Every data word is of this form. -/
theorem cmdData_fields (d : Word) :
    d = cmdData (cmdOp d) (d.extractLsb' 4 8) (d.extractLsb' 3 1) (d.extractLsb' 0 3) := by
  refine BitVec.eq_of_getLsbD_eq fun i hi => ?_
  rw [getLsbD_cmdData]
  simp only [cmdOp, BitVec.getLsbD_extractLsb']
  repeat' split
  · simp [*]
  · simp [show i = 3 by omega]
  · simp [show i - 4 < 8 by omega, show 4 + (i - 4) = i by omega]
  · simp [show i - 12 < 4 by omega, show 12 + (i - 12) = i by omega]

section
variable (op : BitVec 4) (x : BitVec 8) (e : BitVec 1) (l : BitVec 3)

@[simp] theorem cmdOp_cmdData : cmdOp (cmdData op x e l) = op := by
  refine BitVec.eq_of_getLsbD_eq fun i hi => ?_
  simp [cmdOp, getLsbD_cmdData, hi, show ¬ 12 + i < 3 by omega, show ¬ 12 + i < 4 by omega]

@[simp] theorem cmdData_mid : (cmdData op x e l).extractLsb' 4 8 = x := by
  refine BitVec.eq_of_getLsbD_eq fun i hi => ?_
  simp [getLsbD_cmdData, hi, show ¬ 4 + i < 3 by omega, show 4 + i < 12 by omega]

@[simp] theorem cmdData_low : (cmdData op x e l).extractLsb' 0 3 = l := by
  refine BitVec.eq_of_getLsbD_eq fun i hi => ?_
  simp [getLsbD_cmdData, hi]

theorem cmdData_bit3 : (cmdData op x e l).getLsbD 3 = e.getLsbD 0 := by
  rw [getLsbD_cmdData]; rfl

theorem cmdData_bit0 : (cmdData op x e l).getLsbD 0 = l.getLsbD 0 := by
  rw [getLsbD_cmdData]; rfl

@[simp] theorem cmdData_getElem3 : (cmdData op x e l)[3] = e[0] := by
  simpa using cmdData_bit3 op x e l

@[simp] theorem cmdData_getElem0 : (cmdData op x e l)[0] = l[0] := by
  simpa using cmdData_bit0 op x e l

/-- The operand bits D[11:0] are the three lower fields. -/
theorem cmdData_operands : (cmdData op x e l).extractLsb' 0 12 = (x ++ e ++ l : BitVec 12) := by
  refine BitVec.eq_of_getLsbD_eq fun i hi => ?_
  have h₁ := BitVec.getLsbD_append (x := x ++ e) (y := l) (i := i)
  have h₂ := BitVec.getLsbD_append (x := x) (y := e) (i := i - 3)
  refine Eq.trans ?_ h₁.symm
  rw [h₂]
  simp only [BitVec.getLsbD_extractLsb', getLsbD_cmdData, hi, decide_true, Bool.true_and, Nat.zero_add]
  by_cases h : i < 3
  · simp [h]
  · by_cases h' : i < 4
    · simp [h, h', show i - 3 < 1 by omega]
    · simp [h, h', show ¬ i - 3 < 1 by omega, show i - 3 - 1 = i - 4 by omega]

@[simp] theorem cmdData_operands_zero :
    (cmdData op x e l).extractLsb' 0 12 = 0#12 ↔ x = 0#8 ∧ e = 0#1 ∧ l = 0#3 := by
  rw [cmdData_operands]
  revert x e l
  decide

@[simp] theorem cmdData_above_bit0_zero :
    (cmdData op x e l).extractLsb' 1 11 = 0#11 ↔ x = 0#8 ∧ e = 0#1 ∧ (l = 0#3 ∨ l = 1#3) := by
  have h : (cmdData op x e l).extractLsb' 1 11 = ((cmdData op x e l).extractLsb' 0 12).extractLsb' 1 11 := by
    refine BitVec.eq_of_getLsbD_eq fun i hi => ?_
    simp [hi]
  rw [h, cmdData_operands]
  clear h
  revert x e l
  decide

/-- A mask applies field by field. -/
theorem cmdData_and (op' : BitVec 4) (x' : BitVec 8) (e' : BitVec 1) (l' : BitVec 3) :
    cmdData op x e l &&& cmdData op' x' e' l' = cmdData (op &&& op') (x &&& x') (e &&& e') (l &&& l') := by
  refine BitVec.eq_of_getLsbD_eq fun i _ => ?_
  rw [BitVec.getLsbD_and, getLsbD_cmdData, getLsbD_cmdData, getLsbD_cmdData]
  repeat' split
  all_goals simp

end

/-- Two data words built from fields are equal exactly when the fields are. -/
theorem cmdData_inj {op op' : BitVec 4} {x x' : BitVec 8} {e e' : BitVec 1} {l l' : BitVec 3} :
    cmdData op x e l = cmdData op' x' e' l' ↔ op = op' ∧ x = x' ∧ e = e' ∧ l = l' := by
  refine ⟨fun h => ⟨?_, ?_, ?_, ?_⟩, fun ⟨h₁, h₂, h₃, h₄⟩ => by rw [h₁, h₂, h₃, h₄]⟩
  · simpa using congrArg cmdOp h
  · simpa using congrArg (fun d => d.extractLsb' 4 8) h
  · have h₃ := congrArg (fun d => d.getLsbD 3) h
    simp only [cmdData_bit3] at h₃
    clear h
    revert h₃; revert e e'; decide
  · simpa using congrArg (fun d => d.extractLsb' 0 3) h

/-- The decoder on a command's fields: the `case OP` of R74 with its conditions on the fields. -/
theorem decodeCommand_cmdData (op : BitVec 4) (x : BitVec 8) (e : BitVec 1) (l : BitVec 3) :
    decodeCommand (cmdData op x e l) =
      if op = 0#4 then
        if x = 0#8 ∧ e = 0#1 ∧ l = 0#3 then .instr .nop else .reserved (.operandBits op)
      else if op = 1#4 then
        if x = 0#8 then .instr (.icuInit l (e.getLsbD 0)) else .reserved (.operandBits op)
      else if op = 2#4 then
        if x = 0#8 ∧ e = 0#1 ∧ (l = 0#3 ∨ l = 1#3) then .instr (.icuSetCallback (l.getLsbD 0))
        else .reserved (.operandBits op)
      else if op = 3#4 then
        if x = 0#8 ∧ l = 0#3 then .instr (.icuSetEdge (e.getLsbD 0)) else .reserved (.operandBits op)
      else if op = 4#4 then
        if x = 0#8 ∧ e = 0#1 ∧ l = 0#3 then .instr .icuClearCounter else .reserved (.operandBits op)
      else if op = 5#4 then
        if x = 0#8 ∧ e = 0#1 ∧ l = 0#3 then .instr .icuDeinit else .reserved (.operandBits op)
      else if op = 8#4 then
        if x = 0#8 ∧ e = 0#1 ∧ l = 0#3 then .instr .usInit else .reserved (.operandBits op)
      else if op = 9#4 then
        if x = 0#8 ∧ e = 0#1 ∧ l = 0#3 then .instr .usReadDistance else .reserved (.operandBits op)
      else .reserved (.opcode op) := by
  have hz : (x ++ l : BitVec 11) = 0#(8 + 3) ↔ x = 0#8 ∧ l = 0#3 := by clear e op; revert x l; decide
  simp only [decodeCommand, decodeIfZero, cmdOp_cmdData, cmdData_mid, cmdData_low, cmdData_bit3, cmdData_bit0,
    BitVec.ofNat_eq_ofNat, hz, cmdData_operands_zero, cmdData_above_bit0_zero]

end Sys2Proof
end

