-- ==== Sys2Proof/Laws/State.lean ====
section
/-! SUPPORT. One lemma per field per update of State, so that no proof unfolds a record update. -/

namespace Sys2Proof.Machine

open Sys2Proof

/-! The fields of `busReturn`. -/

@[simp] theorem busReturn_params (v : Word) (s : State) : (busReturn v s).params = s.params := rfl
@[simp] theorem busReturn_cs (v : Word) (s : State) : (busReturn v s).cs = s.cs := rfl
@[simp] theorem busReturn_edge (v : Word) (s : State) : (busReturn v s).edge = s.edge := rfl
@[simp] theorem busReturn_icie (v : Word) (s : State) : (busReturn v s).icie = s.icie := rfl
@[simp] theorem busReturn_cb (v : Word) (s : State) : (busReturn v s).cb = s.cb := rfl
@[simp] theorem busReturn_trigOe (v : Word) (s : State) : (busReturn v s).trigOe = s.trigOe := rfl
@[simp] theorem busReturn_icf (v : Word) (s : State) : (busReturn v s).icf = s.icf := rfl
@[simp] theorem busReturn_ready (v : Word) (s : State) : (busReturn v s).ready = s.ready := rfl
@[simp] theorem busReturn_ec (v : Word) (s : State) : (busReturn v s).ec = s.ec := rfl
@[simp] theorem busReturn_tcnt (v : Word) (s : State) : (busReturn v s).tcnt = s.tcnt := rfl
@[simp] theorem busReturn_icr (v : Word) (s : State) : (busReturn v s).icr = s.icr := rfl
@[simp] theorem busReturn_htt (v : Word) (s : State) : (busReturn v s).htt = s.htt := rfl
@[simp] theorem busReturn_dist (v : Word) (s : State) : (busReturn v s).dist = s.dist := rfl
@[simp] theorem busReturn_insvc (v : Word) (s : State) : (busReturn v s).insvc = s.insvc := rfl
@[simp] theorem busReturn_echo (v : Word) (s : State) : (busReturn v s).echo = s.echo := rfl
@[simp] theorem busReturn_gie (v : Word) (s : State) : (busReturn v s).gie = s.gie := rfl
@[simp] theorem busReturn_history (v : Word) (s : State) : (busReturn v s).history = s.history := rfl
@[simp] theorem busReturn_reads (v : Word) (s : State) : (busReturn v s).reads = s.reads ++ [v] := rfl
@[simp] theorem busReturn_program (v : Word) (s : State) : (busReturn v s).program = s.program := rfl
@[simp] theorem busReturn_index (v : Word) (s : State) : (busReturn v s).index = s.index := rfl
@[simp] theorem busReturn_turns (v : Word) (s : State) : (busReturn v s).turns = s.turns := rfl
@[simp] theorem busReturn_drawn (v : Word) (s : State) : (busReturn v s).drawn = s.drawn := rfl

/-! The fields of `emit`. -/

@[simp] theorem emit_params (e : OutEvent) (s : State) : (emit e s).params = s.params := rfl
@[simp] theorem emit_cs (e : OutEvent) (s : State) : (emit e s).cs = s.cs := rfl
@[simp] theorem emit_edge (e : OutEvent) (s : State) : (emit e s).edge = s.edge := rfl
@[simp] theorem emit_icie (e : OutEvent) (s : State) : (emit e s).icie = s.icie := rfl
@[simp] theorem emit_cb (e : OutEvent) (s : State) : (emit e s).cb = s.cb := rfl
@[simp] theorem emit_trigOe (e : OutEvent) (s : State) : (emit e s).trigOe = s.trigOe := rfl
@[simp] theorem emit_icf (e : OutEvent) (s : State) : (emit e s).icf = s.icf := rfl
@[simp] theorem emit_ready (e : OutEvent) (s : State) : (emit e s).ready = s.ready := rfl
@[simp] theorem emit_ec (e : OutEvent) (s : State) : (emit e s).ec = s.ec := rfl
@[simp] theorem emit_tcnt (e : OutEvent) (s : State) : (emit e s).tcnt = s.tcnt := rfl
@[simp] theorem emit_icr (e : OutEvent) (s : State) : (emit e s).icr = s.icr := rfl
@[simp] theorem emit_htt (e : OutEvent) (s : State) : (emit e s).htt = s.htt := rfl
@[simp] theorem emit_dist (e : OutEvent) (s : State) : (emit e s).dist = s.dist := rfl
@[simp] theorem emit_insvc (e : OutEvent) (s : State) : (emit e s).insvc = s.insvc := rfl
@[simp] theorem emit_echo (e : OutEvent) (s : State) : (emit e s).echo = s.echo := rfl
@[simp] theorem emit_gie (e : OutEvent) (s : State) : (emit e s).gie = s.gie := rfl
@[simp] theorem emit_history (e : OutEvent) (s : State) : (emit e s).history = s.history ++ [e] := rfl
@[simp] theorem emit_reads (e : OutEvent) (s : State) : (emit e s).reads = s.reads := rfl
@[simp] theorem emit_program (e : OutEvent) (s : State) : (emit e s).program = s.program := rfl
@[simp] theorem emit_index (e : OutEvent) (s : State) : (emit e s).index = s.index := rfl
@[simp] theorem emit_turns (e : OutEvent) (s : State) : (emit e s).turns = s.turns := rfl
@[simp] theorem emit_drawn (e : OutEvent) (s : State) : (emit e s).drawn = s.drawn := rfl

/-! The fields of `triggerPulse`. -/

@[simp] theorem triggerPulse_params (s : State) : (triggerPulse s).params = s.params := rfl
@[simp] theorem triggerPulse_cs (s : State) : (triggerPulse s).cs = s.cs := rfl
@[simp] theorem triggerPulse_edge (s : State) : (triggerPulse s).edge = s.edge := rfl
@[simp] theorem triggerPulse_icie (s : State) : (triggerPulse s).icie = s.icie := rfl
@[simp] theorem triggerPulse_cb (s : State) : (triggerPulse s).cb = s.cb := rfl
@[simp] theorem triggerPulse_trigOe (s : State) : (triggerPulse s).trigOe = s.trigOe := rfl
@[simp] theorem triggerPulse_icf (s : State) : (triggerPulse s).icf = s.icf := rfl
@[simp] theorem triggerPulse_ready (s : State) : (triggerPulse s).ready = s.ready := rfl
@[simp] theorem triggerPulse_ec (s : State) : (triggerPulse s).ec = s.ec := rfl
@[simp] theorem triggerPulse_tcnt (s : State) : (triggerPulse s).tcnt = s.tcnt := rfl
@[simp] theorem triggerPulse_icr (s : State) : (triggerPulse s).icr = s.icr := rfl
@[simp] theorem triggerPulse_htt (s : State) : (triggerPulse s).htt = s.htt := rfl
@[simp] theorem triggerPulse_dist (s : State) : (triggerPulse s).dist = s.dist := rfl
@[simp] theorem triggerPulse_insvc (s : State) : (triggerPulse s).insvc = s.insvc := rfl
@[simp] theorem triggerPulse_echo (s : State) : (triggerPulse s).echo = s.echo := rfl
@[simp] theorem triggerPulse_gie (s : State) : (triggerPulse s).gie = s.gie := rfl
@[simp] theorem triggerPulse_history (s : State) : (triggerPulse s).history = s.history ++ [.trigPulse s.params.trigDelayUs s.trigOe] := rfl
@[simp] theorem triggerPulse_reads (s : State) : (triggerPulse s).reads = s.reads := rfl
@[simp] theorem triggerPulse_program (s : State) : (triggerPulse s).program = s.program := rfl
@[simp] theorem triggerPulse_index (s : State) : (triggerPulse s).index = s.index := rfl
@[simp] theorem triggerPulse_turns (s : State) : (triggerPulse s).turns = s.turns := rfl
@[simp] theorem triggerPulse_drawn (s : State) : (triggerPulse s).drawn = s.drawn := rfl

/-! The fields of `icuConfigure`. -/

@[simp] theorem icuConfigure_params (cs : BitVec 3) (e : Bool) (s : State) : (icuConfigure cs e s).params = s.params := rfl
@[simp] theorem icuConfigure_cs (cs : BitVec 3) (e : Bool) (s : State) : (icuConfigure cs e s).cs = cs := rfl
@[simp] theorem icuConfigure_edge (cs : BitVec 3) (e : Bool) (s : State) : (icuConfigure cs e s).edge = e := rfl
@[simp] theorem icuConfigure_icie (cs : BitVec 3) (e : Bool) (s : State) : (icuConfigure cs e s).icie = true := rfl
@[simp] theorem icuConfigure_cb (cs : BitVec 3) (e : Bool) (s : State) : (icuConfigure cs e s).cb = s.cb := rfl
@[simp] theorem icuConfigure_trigOe (cs : BitVec 3) (e : Bool) (s : State) : (icuConfigure cs e s).trigOe = s.trigOe := rfl
@[simp] theorem icuConfigure_icf (cs : BitVec 3) (e : Bool) (s : State) : (icuConfigure cs e s).icf = false := rfl
@[simp] theorem icuConfigure_ready (cs : BitVec 3) (e : Bool) (s : State) : (icuConfigure cs e s).ready = s.ready := rfl
@[simp] theorem icuConfigure_ec (cs : BitVec 3) (e : Bool) (s : State) : (icuConfigure cs e s).ec = s.ec := rfl
@[simp] theorem icuConfigure_tcnt (cs : BitVec 3) (e : Bool) (s : State) : (icuConfigure cs e s).tcnt = 0#16 := rfl
@[simp] theorem icuConfigure_icr (cs : BitVec 3) (e : Bool) (s : State) : (icuConfigure cs e s).icr = 0#16 := rfl
@[simp] theorem icuConfigure_htt (cs : BitVec 3) (e : Bool) (s : State) : (icuConfigure cs e s).htt = s.htt := rfl
@[simp] theorem icuConfigure_dist (cs : BitVec 3) (e : Bool) (s : State) : (icuConfigure cs e s).dist = s.dist := rfl
@[simp] theorem icuConfigure_insvc (cs : BitVec 3) (e : Bool) (s : State) : (icuConfigure cs e s).insvc = s.insvc := rfl
@[simp] theorem icuConfigure_echo (cs : BitVec 3) (e : Bool) (s : State) : (icuConfigure cs e s).echo = s.echo := rfl
@[simp] theorem icuConfigure_gie (cs : BitVec 3) (e : Bool) (s : State) : (icuConfigure cs e s).gie = s.gie := rfl
@[simp] theorem icuConfigure_history (cs : BitVec 3) (e : Bool) (s : State) : (icuConfigure cs e s).history = s.history := rfl
@[simp] theorem icuConfigure_reads (cs : BitVec 3) (e : Bool) (s : State) : (icuConfigure cs e s).reads = s.reads := rfl
@[simp] theorem icuConfigure_program (cs : BitVec 3) (e : Bool) (s : State) : (icuConfigure cs e s).program = s.program := rfl
@[simp] theorem icuConfigure_index (cs : BitVec 3) (e : Bool) (s : State) : (icuConfigure cs e s).index = s.index := rfl
@[simp] theorem icuConfigure_turns (cs : BitVec 3) (e : Bool) (s : State) : (icuConfigure cs e s).turns = s.turns := rfl
@[simp] theorem icuConfigure_drawn (cs : BitVec 3) (e : Bool) (s : State) : (icuConfigure cs e s).drawn = s.drawn := rfl

/-! The fields of `consumeMeasurement`. -/

@[simp] theorem consumeMeasurement_params (s : State) : (consumeMeasurement s).params = s.params := rfl
@[simp] theorem consumeMeasurement_cs (s : State) : (consumeMeasurement s).cs = s.cs := rfl
@[simp] theorem consumeMeasurement_edge (s : State) : (consumeMeasurement s).edge = s.edge := rfl
@[simp] theorem consumeMeasurement_icie (s : State) : (consumeMeasurement s).icie = s.icie := rfl
@[simp] theorem consumeMeasurement_cb (s : State) : (consumeMeasurement s).cb = s.cb := rfl
@[simp] theorem consumeMeasurement_trigOe (s : State) : (consumeMeasurement s).trigOe = s.trigOe := rfl
@[simp] theorem consumeMeasurement_icf (s : State) : (consumeMeasurement s).icf = s.icf := rfl
@[simp] theorem consumeMeasurement_ready (s : State) : (consumeMeasurement s).ready = false := rfl
@[simp] theorem consumeMeasurement_ec (s : State) : (consumeMeasurement s).ec = s.ec := rfl
@[simp] theorem consumeMeasurement_tcnt (s : State) : (consumeMeasurement s).tcnt = s.tcnt := rfl
@[simp] theorem consumeMeasurement_icr (s : State) : (consumeMeasurement s).icr = s.icr := rfl
@[simp] theorem consumeMeasurement_htt (s : State) : (consumeMeasurement s).htt = s.htt := rfl
@[simp] theorem consumeMeasurement_dist (s : State) : (consumeMeasurement s).dist = distanceWord s.params s.htt := rfl
@[simp] theorem consumeMeasurement_insvc (s : State) : (consumeMeasurement s).insvc = s.insvc := rfl
@[simp] theorem consumeMeasurement_echo (s : State) : (consumeMeasurement s).echo = s.echo := rfl
@[simp] theorem consumeMeasurement_gie (s : State) : (consumeMeasurement s).gie = s.gie := rfl
@[simp] theorem consumeMeasurement_history (s : State) : (consumeMeasurement s).history = s.history := rfl
@[simp] theorem consumeMeasurement_reads (s : State) : (consumeMeasurement s).reads = s.reads := rfl
@[simp] theorem consumeMeasurement_program (s : State) : (consumeMeasurement s).program = s.program := rfl
@[simp] theorem consumeMeasurement_index (s : State) : (consumeMeasurement s).index = s.index := rfl
@[simp] theorem consumeMeasurement_turns (s : State) : (consumeMeasurement s).turns = s.turns := rfl
@[simp] theorem consumeMeasurement_drawn (s : State) : (consumeMeasurement s).drawn = s.drawn := rfl

/-! The fields of `tick`. -/

@[simp] theorem tick_params (s : State) : (tick s).params = s.params := rfl
@[simp] theorem tick_cs (s : State) : (tick s).cs = s.cs := rfl
@[simp] theorem tick_edge (s : State) : (tick s).edge = s.edge := rfl
@[simp] theorem tick_icie (s : State) : (tick s).icie = s.icie := rfl
@[simp] theorem tick_cb (s : State) : (tick s).cb = s.cb := rfl
@[simp] theorem tick_trigOe (s : State) : (tick s).trigOe = s.trigOe := rfl
@[simp] theorem tick_icf (s : State) : (tick s).icf = s.icf := rfl
@[simp] theorem tick_ready (s : State) : (tick s).ready = s.ready := rfl
@[simp] theorem tick_ec (s : State) : (tick s).ec = s.ec := rfl
@[simp] theorem tick_tcnt (s : State) : (tick s).tcnt = s.tcnt + 1#16 := rfl
@[simp] theorem tick_icr (s : State) : (tick s).icr = s.icr := rfl
@[simp] theorem tick_htt (s : State) : (tick s).htt = s.htt := rfl
@[simp] theorem tick_dist (s : State) : (tick s).dist = s.dist := rfl
@[simp] theorem tick_insvc (s : State) : (tick s).insvc = s.insvc := rfl
@[simp] theorem tick_echo (s : State) : (tick s).echo = s.echo := rfl
@[simp] theorem tick_gie (s : State) : (tick s).gie = s.gie := rfl
@[simp] theorem tick_history (s : State) : (tick s).history = s.history := rfl
@[simp] theorem tick_reads (s : State) : (tick s).reads = s.reads := rfl
@[simp] theorem tick_program (s : State) : (tick s).program = s.program := rfl
@[simp] theorem tick_index (s : State) : (tick s).index = s.index := rfl
@[simp] theorem tick_turns (s : State) : (tick s).turns = s.turns := rfl
@[simp] theorem tick_drawn (s : State) : (tick s).drawn = s.drawn := rfl

/-! The fields of `capture`. -/

@[simp] theorem capture_params (s : State) : (capture s).params = s.params := rfl
@[simp] theorem capture_cs (s : State) : (capture s).cs = s.cs := rfl
@[simp] theorem capture_edge (s : State) : (capture s).edge = s.edge := rfl
@[simp] theorem capture_icie (s : State) : (capture s).icie = s.icie := rfl
@[simp] theorem capture_cb (s : State) : (capture s).cb = s.cb := rfl
@[simp] theorem capture_trigOe (s : State) : (capture s).trigOe = s.trigOe := rfl
@[simp] theorem capture_icf (s : State) : (capture s).icf = true := rfl
@[simp] theorem capture_ready (s : State) : (capture s).ready = s.ready := rfl
@[simp] theorem capture_ec (s : State) : (capture s).ec = s.ec := rfl
@[simp] theorem capture_tcnt (s : State) : (capture s).tcnt = s.tcnt := rfl
@[simp] theorem capture_icr (s : State) : (capture s).icr = s.tcnt := rfl
@[simp] theorem capture_htt (s : State) : (capture s).htt = s.htt := rfl
@[simp] theorem capture_dist (s : State) : (capture s).dist = s.dist := rfl
@[simp] theorem capture_insvc (s : State) : (capture s).insvc = s.insvc := rfl
@[simp] theorem capture_echo (s : State) : (capture s).echo = s.echo := rfl
@[simp] theorem capture_gie (s : State) : (capture s).gie = s.gie := rfl
@[simp] theorem capture_history (s : State) : (capture s).history = s.history := rfl
@[simp] theorem capture_reads (s : State) : (capture s).reads = s.reads := rfl
@[simp] theorem capture_program (s : State) : (capture s).program = s.program := rfl
@[simp] theorem capture_index (s : State) : (capture s).index = s.index := rfl
@[simp] theorem capture_turns (s : State) : (capture s).turns = s.turns := rfl
@[simp] theorem capture_drawn (s : State) : (capture s).drawn = s.drawn := rfl

/-! The fields of `firstEdge`. -/

@[simp] theorem firstEdge_params (s : State) : (firstEdge s).params = s.params := rfl
@[simp] theorem firstEdge_cs (s : State) : (firstEdge s).cs = s.cs := rfl
@[simp] theorem firstEdge_edge (s : State) : (firstEdge s).edge = false := rfl
@[simp] theorem firstEdge_icie (s : State) : (firstEdge s).icie = s.icie := rfl
@[simp] theorem firstEdge_cb (s : State) : (firstEdge s).cb = s.cb := rfl
@[simp] theorem firstEdge_trigOe (s : State) : (firstEdge s).trigOe = s.trigOe := rfl
@[simp] theorem firstEdge_icf (s : State) : (firstEdge s).icf = s.icf := rfl
@[simp] theorem firstEdge_ready (s : State) : (firstEdge s).ready = s.ready := rfl
@[simp] theorem firstEdge_ec (s : State) : (firstEdge s).ec = 1#2 := rfl
@[simp] theorem firstEdge_tcnt (s : State) : (firstEdge s).tcnt = 0#16 := rfl
@[simp] theorem firstEdge_icr (s : State) : (firstEdge s).icr = s.icr := rfl
@[simp] theorem firstEdge_htt (s : State) : (firstEdge s).htt = s.htt := rfl
@[simp] theorem firstEdge_dist (s : State) : (firstEdge s).dist = s.dist := rfl
@[simp] theorem firstEdge_insvc (s : State) : (firstEdge s).insvc = s.insvc := rfl
@[simp] theorem firstEdge_echo (s : State) : (firstEdge s).echo = s.echo := rfl
@[simp] theorem firstEdge_gie (s : State) : (firstEdge s).gie = s.gie := rfl
@[simp] theorem firstEdge_history (s : State) : (firstEdge s).history = s.history := rfl
@[simp] theorem firstEdge_reads (s : State) : (firstEdge s).reads = s.reads := rfl
@[simp] theorem firstEdge_program (s : State) : (firstEdge s).program = s.program := rfl
@[simp] theorem firstEdge_index (s : State) : (firstEdge s).index = s.index := rfl
@[simp] theorem firstEdge_turns (s : State) : (firstEdge s).turns = s.turns := rfl
@[simp] theorem firstEdge_drawn (s : State) : (firstEdge s).drawn = s.drawn := rfl

/-! The fields of `secondEdge`. -/

@[simp] theorem secondEdge_params (s : State) : (secondEdge s).params = s.params := rfl
@[simp] theorem secondEdge_cs (s : State) : (secondEdge s).cs = s.cs := rfl
@[simp] theorem secondEdge_edge (s : State) : (secondEdge s).edge = true := rfl
@[simp] theorem secondEdge_icie (s : State) : (secondEdge s).icie = s.icie := rfl
@[simp] theorem secondEdge_cb (s : State) : (secondEdge s).cb = s.cb := rfl
@[simp] theorem secondEdge_trigOe (s : State) : (secondEdge s).trigOe = s.trigOe := rfl
@[simp] theorem secondEdge_icf (s : State) : (secondEdge s).icf = s.icf := rfl
@[simp] theorem secondEdge_ready (s : State) : (secondEdge s).ready = true := rfl
@[simp] theorem secondEdge_ec (s : State) : (secondEdge s).ec = 0#2 := rfl
@[simp] theorem secondEdge_tcnt (s : State) : (secondEdge s).tcnt = s.tcnt := rfl
@[simp] theorem secondEdge_icr (s : State) : (secondEdge s).icr = s.icr := rfl
@[simp] theorem secondEdge_htt (s : State) : (secondEdge s).htt = s.icr := rfl
@[simp] theorem secondEdge_dist (s : State) : (secondEdge s).dist = s.dist := rfl
@[simp] theorem secondEdge_insvc (s : State) : (secondEdge s).insvc = s.insvc := rfl
@[simp] theorem secondEdge_echo (s : State) : (secondEdge s).echo = s.echo := rfl
@[simp] theorem secondEdge_gie (s : State) : (secondEdge s).gie = s.gie := rfl
@[simp] theorem secondEdge_history (s : State) : (secondEdge s).history = s.history := rfl
@[simp] theorem secondEdge_reads (s : State) : (secondEdge s).reads = s.reads := rfl
@[simp] theorem secondEdge_program (s : State) : (secondEdge s).program = s.program := rfl
@[simp] theorem secondEdge_index (s : State) : (secondEdge s).index = s.index := rfl
@[simp] theorem secondEdge_turns (s : State) : (secondEdge s).turns = s.turns := rfl
@[simp] theorem secondEdge_drawn (s : State) : (secondEdge s).drawn = s.drawn := rfl

/-! The fields of `svcEnter`. -/

@[simp] theorem svcEnter_params (s : State) : (svcEnter s).params = s.params := rfl
@[simp] theorem svcEnter_cs (s : State) : (svcEnter s).cs = s.cs := rfl
@[simp] theorem svcEnter_edge (s : State) : (svcEnter s).edge = s.edge := rfl
@[simp] theorem svcEnter_icie (s : State) : (svcEnter s).icie = s.icie := rfl
@[simp] theorem svcEnter_cb (s : State) : (svcEnter s).cb = s.cb := rfl
@[simp] theorem svcEnter_trigOe (s : State) : (svcEnter s).trigOe = s.trigOe := rfl
@[simp] theorem svcEnter_icf (s : State) : (svcEnter s).icf = false := rfl
@[simp] theorem svcEnter_ready (s : State) : (svcEnter s).ready = s.ready := rfl
@[simp] theorem svcEnter_ec (s : State) : (svcEnter s).ec = s.ec := rfl
@[simp] theorem svcEnter_tcnt (s : State) : (svcEnter s).tcnt = s.tcnt := rfl
@[simp] theorem svcEnter_icr (s : State) : (svcEnter s).icr = s.icr := rfl
@[simp] theorem svcEnter_htt (s : State) : (svcEnter s).htt = s.htt := rfl
@[simp] theorem svcEnter_dist (s : State) : (svcEnter s).dist = s.dist := rfl
@[simp] theorem svcEnter_insvc (s : State) : (svcEnter s).insvc = true := rfl
@[simp] theorem svcEnter_echo (s : State) : (svcEnter s).echo = s.echo := rfl
@[simp] theorem svcEnter_gie (s : State) : (svcEnter s).gie = s.gie := rfl
@[simp] theorem svcEnter_history (s : State) : (svcEnter s).history = s.history := rfl
@[simp] theorem svcEnter_reads (s : State) : (svcEnter s).reads = s.reads := rfl
@[simp] theorem svcEnter_program (s : State) : (svcEnter s).program = s.program := rfl
@[simp] theorem svcEnter_index (s : State) : (svcEnter s).index = s.index := rfl
@[simp] theorem svcEnter_turns (s : State) : (svcEnter s).turns = s.turns := rfl
@[simp] theorem svcEnter_drawn (s : State) : (svcEnter s).drawn = s.drawn := rfl

/-! The fields of `setGie`. -/

@[simp] theorem setGie_params (v : Bool) (s : State) : (setGie v s).params = s.params := rfl
@[simp] theorem setGie_cs (v : Bool) (s : State) : (setGie v s).cs = s.cs := rfl
@[simp] theorem setGie_edge (v : Bool) (s : State) : (setGie v s).edge = s.edge := rfl
@[simp] theorem setGie_icie (v : Bool) (s : State) : (setGie v s).icie = s.icie := rfl
@[simp] theorem setGie_cb (v : Bool) (s : State) : (setGie v s).cb = s.cb := rfl
@[simp] theorem setGie_trigOe (v : Bool) (s : State) : (setGie v s).trigOe = s.trigOe := rfl
@[simp] theorem setGie_icf (v : Bool) (s : State) : (setGie v s).icf = s.icf := rfl
@[simp] theorem setGie_ready (v : Bool) (s : State) : (setGie v s).ready = s.ready := rfl
@[simp] theorem setGie_ec (v : Bool) (s : State) : (setGie v s).ec = s.ec := rfl
@[simp] theorem setGie_tcnt (v : Bool) (s : State) : (setGie v s).tcnt = s.tcnt := rfl
@[simp] theorem setGie_icr (v : Bool) (s : State) : (setGie v s).icr = s.icr := rfl
@[simp] theorem setGie_htt (v : Bool) (s : State) : (setGie v s).htt = s.htt := rfl
@[simp] theorem setGie_dist (v : Bool) (s : State) : (setGie v s).dist = s.dist := rfl
@[simp] theorem setGie_insvc (v : Bool) (s : State) : (setGie v s).insvc = s.insvc := rfl
@[simp] theorem setGie_echo (v : Bool) (s : State) : (setGie v s).echo = s.echo := rfl
@[simp] theorem setGie_gie (v : Bool) (s : State) : (setGie v s).gie = v := rfl
@[simp] theorem setGie_history (v : Bool) (s : State) : (setGie v s).history = s.history := rfl
@[simp] theorem setGie_reads (v : Bool) (s : State) : (setGie v s).reads = s.reads := rfl
@[simp] theorem setGie_program (v : Bool) (s : State) : (setGie v s).program = s.program := rfl
@[simp] theorem setGie_index (v : Bool) (s : State) : (setGie v s).index = s.index := rfl
@[simp] theorem setGie_turns (v : Bool) (s : State) : (setGie v s).turns = s.turns := rfl
@[simp] theorem setGie_drawn (v : Bool) (s : State) : (setGie v s).drawn = s.drawn := rfl

/-! The fields of `advance`. -/

@[simp] theorem advance_params (s : State) : (advance s).params = s.params := rfl
@[simp] theorem advance_cs (s : State) : (advance s).cs = s.cs := rfl
@[simp] theorem advance_edge (s : State) : (advance s).edge = s.edge := rfl
@[simp] theorem advance_icie (s : State) : (advance s).icie = s.icie := rfl
@[simp] theorem advance_cb (s : State) : (advance s).cb = s.cb := rfl
@[simp] theorem advance_trigOe (s : State) : (advance s).trigOe = s.trigOe := rfl
@[simp] theorem advance_icf (s : State) : (advance s).icf = s.icf := rfl
@[simp] theorem advance_ready (s : State) : (advance s).ready = s.ready := rfl
@[simp] theorem advance_ec (s : State) : (advance s).ec = s.ec := rfl
@[simp] theorem advance_tcnt (s : State) : (advance s).tcnt = s.tcnt := rfl
@[simp] theorem advance_icr (s : State) : (advance s).icr = s.icr := rfl
@[simp] theorem advance_htt (s : State) : (advance s).htt = s.htt := rfl
@[simp] theorem advance_dist (s : State) : (advance s).dist = s.dist := rfl
@[simp] theorem advance_insvc (s : State) : (advance s).insvc = s.insvc := rfl
@[simp] theorem advance_echo (s : State) : (advance s).echo = s.echo := rfl
@[simp] theorem advance_gie (s : State) : (advance s).gie = s.gie := rfl
@[simp] theorem advance_history (s : State) : (advance s).history = s.history := rfl
@[simp] theorem advance_reads (s : State) : (advance s).reads = s.reads := rfl
@[simp] theorem advance_program (s : State) : (advance s).program = s.program.tail := rfl
@[simp] theorem advance_index (s : State) : (advance s).index = s.index + 1 := rfl
@[simp] theorem advance_turns (s : State) : (advance s).turns = s.turns := rfl
@[simp] theorem advance_drawn (s : State) : (advance s).drawn = s.drawn := rfl

/-! The fields that `echoSet` leaves as they are. -/

@[simp] theorem echoSet_params (v : Bool) (s : State) : (echoSet v s).params = s.params := by unfold echoSet; split <;> rfl
@[simp] theorem echoSet_cs (v : Bool) (s : State) : (echoSet v s).cs = s.cs := by unfold echoSet; split <;> rfl
@[simp] theorem echoSet_edge (v : Bool) (s : State) : (echoSet v s).edge = s.edge := by unfold echoSet; split <;> rfl
@[simp] theorem echoSet_icie (v : Bool) (s : State) : (echoSet v s).icie = s.icie := by unfold echoSet; split <;> rfl
@[simp] theorem echoSet_cb (v : Bool) (s : State) : (echoSet v s).cb = s.cb := by unfold echoSet; split <;> rfl
@[simp] theorem echoSet_trigOe (v : Bool) (s : State) : (echoSet v s).trigOe = s.trigOe := by unfold echoSet; split <;> rfl
@[simp] theorem echoSet_ready (v : Bool) (s : State) : (echoSet v s).ready = s.ready := by unfold echoSet; split <;> rfl
@[simp] theorem echoSet_ec (v : Bool) (s : State) : (echoSet v s).ec = s.ec := by unfold echoSet; split <;> rfl
@[simp] theorem echoSet_tcnt (v : Bool) (s : State) : (echoSet v s).tcnt = s.tcnt := by unfold echoSet; split <;> rfl
@[simp] theorem echoSet_htt (v : Bool) (s : State) : (echoSet v s).htt = s.htt := by unfold echoSet; split <;> rfl
@[simp] theorem echoSet_dist (v : Bool) (s : State) : (echoSet v s).dist = s.dist := by unfold echoSet; split <;> rfl
@[simp] theorem echoSet_insvc (v : Bool) (s : State) : (echoSet v s).insvc = s.insvc := by unfold echoSet; split <;> rfl
@[simp] theorem echoSet_gie (v : Bool) (s : State) : (echoSet v s).gie = s.gie := by unfold echoSet; split <;> rfl
@[simp] theorem echoSet_history (v : Bool) (s : State) : (echoSet v s).history = s.history := by unfold echoSet; split <;> rfl
@[simp] theorem echoSet_reads (v : Bool) (s : State) : (echoSet v s).reads = s.reads := by unfold echoSet; split <;> rfl
@[simp] theorem echoSet_program (v : Bool) (s : State) : (echoSet v s).program = s.program := by unfold echoSet; split <;> rfl
@[simp] theorem echoSet_index (v : Bool) (s : State) : (echoSet v s).index = s.index := by unfold echoSet; split <;> rfl
@[simp] theorem echoSet_turns (v : Bool) (s : State) : (echoSet v s).turns = s.turns := by unfold echoSet; split <;> rfl
@[simp] theorem echoSet_drawn (v : Bool) (s : State) : (echoSet v s).drawn = s.drawn := by unfold echoSet; split <;> rfl

/-! The fields that `edgeProcess` leaves as they are. -/

@[simp] theorem edgeProcess_params (s : State) : (edgeProcess s).params = s.params := by unfold edgeProcess; split <;> [rfl; (split <;> rfl)]
@[simp] theorem edgeProcess_cs (s : State) : (edgeProcess s).cs = s.cs := by unfold edgeProcess; split <;> [rfl; (split <;> rfl)]
@[simp] theorem edgeProcess_icie (s : State) : (edgeProcess s).icie = s.icie := by unfold edgeProcess; split <;> [rfl; (split <;> rfl)]
@[simp] theorem edgeProcess_cb (s : State) : (edgeProcess s).cb = s.cb := by unfold edgeProcess; split <;> [rfl; (split <;> rfl)]
@[simp] theorem edgeProcess_trigOe (s : State) : (edgeProcess s).trigOe = s.trigOe := by unfold edgeProcess; split <;> [rfl; (split <;> rfl)]
@[simp] theorem edgeProcess_icf (s : State) : (edgeProcess s).icf = s.icf := by unfold edgeProcess; split <;> [rfl; (split <;> rfl)]
@[simp] theorem edgeProcess_icr (s : State) : (edgeProcess s).icr = s.icr := by unfold edgeProcess; split <;> [rfl; (split <;> rfl)]
@[simp] theorem edgeProcess_dist (s : State) : (edgeProcess s).dist = s.dist := by unfold edgeProcess; split <;> [rfl; (split <;> rfl)]
@[simp] theorem edgeProcess_insvc (s : State) : (edgeProcess s).insvc = s.insvc := by unfold edgeProcess; split <;> [rfl; (split <;> rfl)]
@[simp] theorem edgeProcess_echo (s : State) : (edgeProcess s).echo = s.echo := by unfold edgeProcess; split <;> [rfl; (split <;> rfl)]
@[simp] theorem edgeProcess_gie (s : State) : (edgeProcess s).gie = s.gie := by unfold edgeProcess; split <;> [rfl; (split <;> rfl)]
@[simp] theorem edgeProcess_history (s : State) : (edgeProcess s).history = s.history := by unfold edgeProcess; split <;> [rfl; (split <;> rfl)]
@[simp] theorem edgeProcess_reads (s : State) : (edgeProcess s).reads = s.reads := by unfold edgeProcess; split <;> [rfl; (split <;> rfl)]
@[simp] theorem edgeProcess_program (s : State) : (edgeProcess s).program = s.program := by unfold edgeProcess; split <;> [rfl; (split <;> rfl)]
@[simp] theorem edgeProcess_index (s : State) : (edgeProcess s).index = s.index := by unfold edgeProcess; split <;> [rfl; (split <;> rfl)]
@[simp] theorem edgeProcess_turns (s : State) : (edgeProcess s).turns = s.turns := by unfold edgeProcess; split <;> [rfl; (split <;> rfl)]
@[simp] theorem edgeProcess_drawn (s : State) : (edgeProcess s).drawn = s.drawn := by unfold edgeProcess; split <;> [rfl; (split <;> rfl)]

/-! The fields that `runCallback` leaves as they are. -/

@[simp] theorem runCallback_params (s : State) : (runCallback s).params = s.params := by unfold runCallback; split <;> simp
@[simp] theorem runCallback_cs (s : State) : (runCallback s).cs = s.cs := by unfold runCallback; split <;> simp
@[simp] theorem runCallback_icie (s : State) : (runCallback s).icie = s.icie := by unfold runCallback; split <;> simp
@[simp] theorem runCallback_cb (s : State) : (runCallback s).cb = s.cb := by unfold runCallback; split <;> simp
@[simp] theorem runCallback_trigOe (s : State) : (runCallback s).trigOe = s.trigOe := by unfold runCallback; split <;> simp
@[simp] theorem runCallback_icf (s : State) : (runCallback s).icf = s.icf := by unfold runCallback; split <;> simp
@[simp] theorem runCallback_icr (s : State) : (runCallback s).icr = s.icr := by unfold runCallback; split <;> simp
@[simp] theorem runCallback_dist (s : State) : (runCallback s).dist = s.dist := by unfold runCallback; split <;> simp
@[simp] theorem runCallback_insvc (s : State) : (runCallback s).insvc = s.insvc := by unfold runCallback; split <;> simp
@[simp] theorem runCallback_echo (s : State) : (runCallback s).echo = s.echo := by unfold runCallback; split <;> simp
@[simp] theorem runCallback_gie (s : State) : (runCallback s).gie = s.gie := by unfold runCallback; split <;> simp
@[simp] theorem runCallback_history (s : State) : (runCallback s).history = s.history := by unfold runCallback; split <;> simp
@[simp] theorem runCallback_reads (s : State) : (runCallback s).reads = s.reads := by unfold runCallback; split <;> simp
@[simp] theorem runCallback_program (s : State) : (runCallback s).program = s.program := by unfold runCallback; split <;> simp
@[simp] theorem runCallback_index (s : State) : (runCallback s).index = s.index := by unfold runCallback; split <;> simp
@[simp] theorem runCallback_turns (s : State) : (runCallback s).turns = s.turns := by unfold runCallback; split <;> simp
@[simp] theorem runCallback_drawn (s : State) : (runCallback s).drawn = s.drawn := by unfold runCallback; split <;> simp

/-! The fields that `svcRun` leaves as they are. -/

@[simp] theorem svcRun_params (s : State) : (svcRun s).params = s.params := by simp [svcRun]
@[simp] theorem svcRun_cs (s : State) : (svcRun s).cs = s.cs := by simp [svcRun]
@[simp] theorem svcRun_icie (s : State) : (svcRun s).icie = s.icie := by simp [svcRun]
@[simp] theorem svcRun_cb (s : State) : (svcRun s).cb = s.cb := by simp [svcRun]
@[simp] theorem svcRun_trigOe (s : State) : (svcRun s).trigOe = s.trigOe := by simp [svcRun]
@[simp] theorem svcRun_icf (s : State) : (svcRun s).icf = s.icf := by simp [svcRun]
@[simp] theorem svcRun_icr (s : State) : (svcRun s).icr = s.icr := by simp [svcRun]
@[simp] theorem svcRun_dist (s : State) : (svcRun s).dist = s.dist := by simp [svcRun]
@[simp] theorem svcRun_echo (s : State) : (svcRun s).echo = s.echo := by simp [svcRun]
@[simp] theorem svcRun_gie (s : State) : (svcRun s).gie = s.gie := by simp [svcRun]
@[simp] theorem svcRun_history (s : State) : (svcRun s).history = s.history := by simp [svcRun]
@[simp] theorem svcRun_reads (s : State) : (svcRun s).reads = s.reads := by simp [svcRun]
@[simp] theorem svcRun_program (s : State) : (svcRun s).program = s.program := by simp [svcRun]
@[simp] theorem svcRun_index (s : State) : (svcRun s).index = s.index := by simp [svcRun]
@[simp] theorem svcRun_turns (s : State) : (svcRun s).turns = s.turns := by simp [svcRun]
@[simp] theorem svcRun_drawn (s : State) : (svcRun s).drawn = s.drawn := by simp [svcRun]

/-! The fields that `takeTurn` leaves as they are. -/

@[simp] theorem takeTurn_params (s : State) : (takeTurn s).params = s.params := by unfold takeTurn; split <;> rfl
@[simp] theorem takeTurn_cs (s : State) : (takeTurn s).cs = s.cs := by unfold takeTurn; split <;> rfl
@[simp] theorem takeTurn_edge (s : State) : (takeTurn s).edge = s.edge := by unfold takeTurn; split <;> rfl
@[simp] theorem takeTurn_icie (s : State) : (takeTurn s).icie = s.icie := by unfold takeTurn; split <;> rfl
@[simp] theorem takeTurn_cb (s : State) : (takeTurn s).cb = s.cb := by unfold takeTurn; split <;> rfl
@[simp] theorem takeTurn_trigOe (s : State) : (takeTurn s).trigOe = s.trigOe := by unfold takeTurn; split <;> rfl
@[simp] theorem takeTurn_icf (s : State) : (takeTurn s).icf = s.icf := by unfold takeTurn; split <;> rfl
@[simp] theorem takeTurn_ready (s : State) : (takeTurn s).ready = s.ready := by unfold takeTurn; split <;> rfl
@[simp] theorem takeTurn_ec (s : State) : (takeTurn s).ec = s.ec := by unfold takeTurn; split <;> rfl
@[simp] theorem takeTurn_tcnt (s : State) : (takeTurn s).tcnt = s.tcnt := by unfold takeTurn; split <;> rfl
@[simp] theorem takeTurn_icr (s : State) : (takeTurn s).icr = s.icr := by unfold takeTurn; split <;> rfl
@[simp] theorem takeTurn_htt (s : State) : (takeTurn s).htt = s.htt := by unfold takeTurn; split <;> rfl
@[simp] theorem takeTurn_dist (s : State) : (takeTurn s).dist = s.dist := by unfold takeTurn; split <;> rfl
@[simp] theorem takeTurn_insvc (s : State) : (takeTurn s).insvc = s.insvc := by unfold takeTurn; split <;> rfl
@[simp] theorem takeTurn_echo (s : State) : (takeTurn s).echo = s.echo := by unfold takeTurn; split <;> rfl
@[simp] theorem takeTurn_gie (s : State) : (takeTurn s).gie = s.gie := by unfold takeTurn; split <;> rfl
@[simp] theorem takeTurn_history (s : State) : (takeTurn s).history = s.history := by unfold takeTurn; split <;> rfl
@[simp] theorem takeTurn_reads (s : State) : (takeTurn s).reads = s.reads := by unfold takeTurn; split <;> rfl
@[simp] theorem takeTurn_program (s : State) : (takeTurn s).program = s.program := by unfold takeTurn; split <;> rfl
@[simp] theorem takeTurn_index (s : State) : (takeTurn s).index = s.index := by unfold takeTurn; split <;> rfl

@[simp] theorem echoSet_echo (v : Bool) (s : State) : (echoSet v s).echo = v := by
  unfold echoSet; split <;> rfl

@[simp] theorem svcRun_insvc (s : State) : (svcRun s).insvc = false := rfl

/-- Taking a turn touches the scheduling data alone. -/
theorem takeTurn_eq (s : State) :
    takeTurn s = { s with turns := (takeTurn s).turns, drawn := (takeTurn s).drawn } := by
  unfold takeTurn; split <;> rfl

@[simp] theorem nextTurn_of_cons {s : State} {t : Turn} {rest : List Turn} (h : s.turns = t :: rest) :
    nextTurn s = t := by
  simp [nextTurn, h]

theorem takeTurn_of_cons {s : State} {t : Turn} {rest : List Turn} (h : s.turns = t :: rest) :
    takeTurn s = { s with turns := rest } := by
  simp [takeTurn, h]

/-! The values a reset during a run leaves. -/

@[simp] theorem resetStep_params (e : Bool) (p : List HostItem) (s : State) : (resetStep e p s).params = s.params := rfl
@[simp] theorem resetStep_cs (e : Bool) (p : List HostItem) (s : State) : (resetStep e p s).cs = 0#3 := rfl
@[simp] theorem resetStep_edge (e : Bool) (p : List HostItem) (s : State) : (resetStep e p s).edge = false := rfl
@[simp] theorem resetStep_icie (e : Bool) (p : List HostItem) (s : State) : (resetStep e p s).icie = false := rfl
@[simp] theorem resetStep_cb (e : Bool) (p : List HostItem) (s : State) : (resetStep e p s).cb = false := rfl
@[simp] theorem resetStep_trigOe (e : Bool) (p : List HostItem) (s : State) : (resetStep e p s).trigOe = false := rfl
@[simp] theorem resetStep_icf (e : Bool) (p : List HostItem) (s : State) : (resetStep e p s).icf = false := rfl
@[simp] theorem resetStep_ready (e : Bool) (p : List HostItem) (s : State) : (resetStep e p s).ready = false := rfl
@[simp] theorem resetStep_ec (e : Bool) (p : List HostItem) (s : State) : (resetStep e p s).ec = 0#2 := rfl
@[simp] theorem resetStep_tcnt (e : Bool) (p : List HostItem) (s : State) : (resetStep e p s).tcnt = 0#16 := rfl
@[simp] theorem resetStep_icr (e : Bool) (p : List HostItem) (s : State) : (resetStep e p s).icr = 0#16 := rfl
@[simp] theorem resetStep_htt (e : Bool) (p : List HostItem) (s : State) : (resetStep e p s).htt = 0#16 := rfl
@[simp] theorem resetStep_dist (e : Bool) (p : List HostItem) (s : State) : (resetStep e p s).dist = 0#16 := rfl
@[simp] theorem resetStep_insvc (e : Bool) (p : List HostItem) (s : State) : (resetStep e p s).insvc = false := rfl
@[simp] theorem resetStep_echo (e : Bool) (p : List HostItem) (s : State) : (resetStep e p s).echo = e := rfl
@[simp] theorem resetStep_gie (e : Bool) (p : List HostItem) (s : State) : (resetStep e p s).gie = false := rfl
@[simp] theorem resetStep_history (e : Bool) (p : List HostItem) (s : State) : (resetStep e p s).history = [] := rfl
@[simp] theorem resetStep_reads (e : Bool) (p : List HostItem) (s : State) : (resetStep e p s).reads = [] := rfl
@[simp] theorem resetStep_program (e : Bool) (p : List HostItem) (s : State) : (resetStep e p s).program = p := rfl
@[simp] theorem resetStep_index (e : Bool) (p : List HostItem) (s : State) : (resetStep e p s).index = 0 := rfl
@[simp] theorem resetStep_turns (e : Bool) (p : List HostItem) (s : State) : (resetStep e p s).turns = s.turns := rfl
@[simp] theorem resetStep_drawn (e : Bool) (p : List HostItem) (s : State) : (resetStep e p s).drawn = s.drawn := rfl

end Sys2Proof.Machine
end

