-- ==== Sys2Proof/Laws/Ops.lean ====
section
/-! SUPPORT. What each shared operation can do, said once. -/

namespace Sys2Proof.Machine

open Sys2Proof

/-- The turn taken leaves everything but the scheduling data, so the views of the state are those before it. -/
@[simp] theorem irq_takeTurn (s : State) : irq (takeTurn s) = irq s := by simp [irq]

@[simp] theorem ctrlWord_takeTurn (s : State) : ctrlWord (takeTurn s) = ctrlWord s := by simp [ctrlWord]

@[simp] theorem statusWord_takeTurn (s : State) : statusWord (takeTurn s) = statusWord s := by simp [statusWord]

@[simp] theorem irq_advance (s : State) : irq (advance s) = irq s := rfl

@[simp] theorem ctrlWord_advance (s : State) : ctrlWord (advance s) = ctrlWord s := rfl

@[simp] theorem statusWord_advance (s : State) : statusWord (advance s) = statusWord s := rfl

theorem edgeMatches_eq_true {edge old new : Bool} :
    edgeMatches edge old new = true ↔ old ≠ new ∧ edge = new := by
  cases edge <;> cases old <;> cases new <;> simp [edgeMatches]

/-- An echo step either captures (a transition that matches EDGE) or changes the pin's level alone. -/
theorem echoSet_cases (v : Bool) (s : State) :
    (s.echo ≠ v ∧ s.edge = v ∧ echoSet v s = { s with echo := v, icr := s.tcnt, icf := true }) ∨
    (¬ (s.echo ≠ v ∧ s.edge = v) ∧ echoSet v s = { s with echo := v }) := by
  by_cases h : edgeMatches s.edge s.echo v = true
  · exact .inl ⟨(edgeMatches_eq_true.mp h).1, (edgeMatches_eq_true.mp h).2, by simp [echoSet, h, capture]⟩
  · exact .inr ⟨fun hc => h (edgeMatches_eq_true.mpr hc), by simp [echoSet, h]⟩

/-- The state machine takes its first edge, its second edge, or does nothing. -/
theorem edgeProcess_cases (s : State) :
    (s.ec = 0#2 ∧ edgeProcess s = firstEdge s) ∨ (s.ec = 1#2 ∧ edgeProcess s = secondEdge s) ∨
    (s.ec ≠ 0#2 ∧ s.ec ≠ 1#2 ∧ edgeProcess s = s) := by
  unfold edgeProcess
  split
  · exact .inl ⟨‹_›, rfl⟩
  · split
    · exact .inr (.inl ⟨‹_›, rfl⟩)
    · exact .inr (.inr ⟨‹_›, ‹_›, rfl⟩)

/-- A service body: without a callback only the return; with one, an edge is processed first. -/
theorem svcRun_cases (s : State) :
    (s.cb = true ∧ s.ec = 0#2 ∧ svcRun s = { firstEdge s with insvc := false }) ∨
    (s.cb = true ∧ s.ec = 1#2 ∧ svcRun s = { secondEdge s with insvc := false }) ∨
    ((s.cb = false ∨ (s.ec ≠ 0#2 ∧ s.ec ≠ 1#2)) ∧ svcRun s = { s with insvc := false }) := by
  by_cases hc : s.cb = true
  · rcases edgeProcess_cases s with ⟨h, he⟩ | ⟨h, he⟩ | ⟨h, h', he⟩
    · exact .inl ⟨hc, h, by simp [svcRun, runCallback, hc, he]⟩
    · exact .inr (.inl ⟨hc, h, by simp [svcRun, runCallback, hc, he]⟩)
    · exact .inr (.inr ⟨.inr ⟨h, h'⟩, by simp [svcRun, runCallback, hc, he]⟩)
  · exact .inr (.inr ⟨.inl (by simpa using hc), by simp [svcRun, runCallback, hc]⟩)

/-! The fields `svcRun` and `echoSet` write, as values of the state before. -/

theorem svcRun_ec (s : State) :
    (svcRun s).ec = if s.cb = true ∧ s.ec = 0#2 then 1#2 else if s.cb = true ∧ s.ec = 1#2 then 0#2 else s.ec := by
  rcases svcRun_cases s with ⟨h₁, h₂, h⟩ | ⟨h₁, h₂, h⟩ | ⟨h₁ | ⟨h₁, h₂⟩, h⟩ <;> simp [*]

theorem svcRun_tcnt (s : State) : (svcRun s).tcnt = if s.cb = true ∧ s.ec = 0#2 then 0#16 else s.tcnt := by
  rcases svcRun_cases s with ⟨h₁, h₂, h⟩ | ⟨h₁, h₂, h⟩ | ⟨h₁ | ⟨h₁, h₂⟩, h⟩ <;> simp [*]

theorem svcRun_edge (s : State) :
    (svcRun s).edge =
      if s.cb = true ∧ s.ec = 0#2 then false else if s.cb = true ∧ s.ec = 1#2 then true else s.edge := by
  rcases svcRun_cases s with ⟨h₁, h₂, h⟩ | ⟨h₁, h₂, h⟩ | ⟨h₁ | ⟨h₁, h₂⟩, h⟩ <;> simp [*]

theorem svcRun_htt (s : State) : (svcRun s).htt = if s.cb = true ∧ s.ec = 1#2 then s.icr else s.htt := by
  rcases svcRun_cases s with ⟨h₁, h₂, h⟩ | ⟨h₁, h₂, h⟩ | ⟨h₁ | ⟨h₁, h₂⟩, h⟩ <;> simp [*]

theorem svcRun_ready (s : State) : (svcRun s).ready = (s.ready || (s.cb && decide (s.ec = 1#2))) := by
  rcases svcRun_cases s with ⟨h₁, h₂, h⟩ | ⟨h₁, h₂, h⟩ | ⟨h₁ | ⟨h₁, h₂⟩, h⟩ <;> simp [*]

theorem echoSet_icr (v : Bool) (s : State) :
    (echoSet v s).icr = if s.echo ≠ v ∧ s.edge = v then s.tcnt else s.icr := by
  rcases echoSet_cases v s with ⟨h₁, h₂, h⟩ | ⟨h₁, h⟩
  · simp [h, h₁, h₂]
  · rw [h, if_neg h₁]

theorem echoSet_icf (v : Bool) (s : State) :
    (echoSet v s).icf = (s.icf || (decide (s.echo ≠ v) && decide (s.edge = v))) := by
  rcases echoSet_cases v s with ⟨h₁, h₂, h⟩ | ⟨h₁, h⟩
  · simp [h, h₁, h₂]
  · rw [h, ← Bool.decide_and, decide_eq_false h₁, Bool.or_false]

theorem svcEnterEnabled_eq_true {s : State} :
    svcEnterEnabled s = true ↔ s.icf = true ∧ s.icie = true ∧ s.gie = true ∧ s.insvc = false := by
  simp [svcEnterEnabled, and_assoc]

@[simp] theorem svcRunEnabled_eq (s : State) : svcRunEnabled s = s.insvc := rfl

theorem tickEnabled_eq_true {cs : BitVec 3} : tickEnabled cs = true ↔ cs ≠ 0#3 := by
  revert cs; decide

/-- A free action of the host needs INSVC = 0; each action of another agent needs that agent's turn and its enabling
condition. The inversion lemma of `nextAction`. -/
theorem nextAction_cases (s : State) :
    nextAction s = .wait ∨
    (nextTurn s = .host ∧ s.insvc = false ∧
      ∃ item rest, s.program = item :: rest ∧ nextAction s = itemAction s.params item) ∨
    (nextTurn s = .tick ∧ s.cs ≠ 0#3 ∧ nextAction s = .tick) ∨
    (∃ v, nextTurn s = .echoSet v ∧ nextAction s = .echoSet v) ∨
    (nextTurn s = .svcEnter ∧ svcEnterEnabled s = true ∧ nextAction s = .svcEnter) ∨
    (nextTurn s = .svcRun ∧ s.insvc = true ∧ nextAction s = .svcRun) ∨
    (∃ e p, nextTurn s = .reset e p ∧ nextAction s = .reset e p) := by
  unfold nextAction
  split
  · rename_i h
    unfold hostAction
    split
    · exact .inl rfl
    · split
      · exact .inl rfl
      · rename_i item rest hp
        exact .inr (.inl ⟨h, by simp_all, item, rest, hp, rfl⟩)
  · split
    · rename_i ht
      exact .inr (.inr (.inl ⟨‹_›, tickEnabled_eq_true.mp ht, rfl⟩))
    · exact .inl rfl
  · exact .inr (.inr (.inr (.inl ⟨_, ‹_›, rfl⟩)))
  · split
    · exact .inr (.inr (.inr (.inr (.inl ⟨‹_›, ‹_›, rfl⟩))))
    · exact .inl rfl
  · split
    · rename_i hr
      exact .inr (.inr (.inr (.inr (.inr (.inl ⟨‹_›, hr, rfl⟩)))))
    · exact .inl rfl
  · exact .inr (.inr (.inr (.inr (.inr (.inr ⟨_, _, ‹_›, rfl⟩)))))

/-- A transaction word is an instruction or a reserved command, never an action of another agent. -/
theorem txAction_cases (t : TxWord) :
    (∃ i, decode t = .instr i ∧ txAction t = .instr i) ∨
    (∃ r, decode t = .reserved r ∧ txAction t = .reserved r) := by
  unfold txAction
  split
  · exact .inl ⟨_, ‹_›, rfl⟩
  · exact .inr ⟨_, ‹_›, rfl⟩

/-- What a host item can be. -/
theorem itemAction_cases (p : Params) (item : HostItem) :
    (∃ i, itemAction p item = .instr i) ∨ (∃ r, itemAction p item = .reserved r) ∨
    (∃ v, itemAction p item = .driveGie v) ∨ itemAction p item = .partialAccess := by
  have tx : ∀ t, (∃ i, txAction t = .instr i) ∨ (∃ r, txAction t = .reserved r) := fun t => by
    rcases txAction_cases t with ⟨i, -, h⟩ | ⟨r, -, h⟩
    · exact .inl ⟨i, h⟩
    · exact .inr ⟨r, h⟩
  cases item with
  | trans t => rcases tx t with h | h <;> simp [itemAction, h]
  | sei => exact .inr (.inr (.inl ⟨_, rfl⟩))
  | cli => exact .inr (.inr (.inl ⟨_, rfl⟩))
  | mapped m =>
    unfold itemAction
    dsimp only
    split
    · rename_i t _
      rcases tx t with h | h
      · exact .inl h
      · exact .inr (.inl h)
    · exact .inr (.inr (.inr rfl))

end Sys2Proof.Machine
end

