-- ==== Sys2Proof/Laws/PerInstr.lean ====
section
/-! SUPPORT. The family EncodedRow: the word of a well-formed instruction selects the instruction's own row of the table
of R63. -/

namespace Sys2Proof.Laws.EncodedRow

open Sys2Proof

/-- The encoder's word lies in the instruction's own row. -/
def Statement (i : Instr) : Prop := i.wellFormed = true → i.row.selects (encode i) = true

/-- A read or write whose row fixes W and A. -/
theorem selects_whole (n : String) (w : BitVec 1) (a : RegAddr) (d : Word) :
    (OpcodeRow.mk n (mkTx w a 0#16) 0xF0000#20).selects (mkTx w a d) = true := by
  simp only [OpcodeRow.selects, decide_eq_true_eq, maskF0000_fields, mkTx_and, mkTx_inj]
  exact ⟨by revert w; decide, by revert a; decide, by simp⟩

theorem rdCtrl (d : Word) : Statement (.rdCtrl d) := fun _ => selects_whole _ 0#1 0#3 d

theorem rdStatus (d : Word) : Statement (.rdStatus d) := fun _ => selects_whole _ 0#1 1#3 d

theorem rdTcnt (d : Word) : Statement (.rdTcnt d) := fun _ => selects_whole _ 0#1 2#3 d

theorem rdIcr (d : Word) : Statement (.rdIcr d) := fun _ => selects_whole _ 0#1 3#3 d

theorem rdHtt (d : Word) : Statement (.rdHtt d) := fun _ => selects_whole _ 0#1 4#3 d

theorem rdDist (d : Word) : Statement (.rdDist d) := fun _ => selects_whole _ 0#1 5#3 d

theorem rdZero (a : RegAddr) (d : Word) : Statement (.rdZero a d) := by
  intro h
  have hp : (0x60000#20 : TxWord) = mkTx 0#1 6#3 0#16 := by decide
  simp only [Instr.row, encode, OpcodeRow.selects, decide_eq_true_eq, maskE0000_fields, hp, mkTx_and, mkTx_inj]
  refine ⟨by decide, ?_, by simp⟩
  revert h; revert a; simp only [Instr.wellFormed]; decide

theorem nop : Statement .nop := fun _ => by decide

theorem icuInit (cs : BitVec 3) (e : Bool) : Statement (.icuInit cs e) := by
  intro _; revert cs e; decide

theorem icuSetCallback (b : Bool) : Statement (.icuSetCallback b) := by
  intro _; revert b; decide

theorem icuSetEdge (e : Bool) : Statement (.icuSetEdge e) := by
  intro _; revert e; decide

theorem icuClearCounter : Statement .icuClearCounter := fun _ => by decide

theorem icuDeinit : Statement .icuDeinit := fun _ => by decide

theorem usInit : Statement .usInit := fun _ => by decide

theorem usReadDistance : Statement .usReadDistance := fun _ => by decide

theorem wrIgnoredLow (a : RegAddr) (d : Word) : Statement (.wrIgnoredLow a d) := by
  intro h
  have hp : (0x80000#20 : TxWord) = mkTx 1#1 0#3 0#16 := by decide
  simp only [Instr.row, encode, OpcodeRow.selects, decide_eq_true_eq, maskC0000_fields, hp, mkTx_and, mkTx_inj]
  refine ⟨by decide, ?_, by simp⟩
  revert h; revert a; simp only [Instr.wellFormed]; decide

theorem wrIgnoredMid (a : RegAddr) (d : Word) : Statement (.wrIgnoredMid a d) := by
  intro h
  have hp : (0xC0000#20 : TxWord) = mkTx 1#1 4#3 0#16 := by decide
  simp only [Instr.row, encode, OpcodeRow.selects, decide_eq_true_eq, maskE0000_fields, hp, mkTx_and, mkTx_inj]
  refine ⟨by decide, ?_, by simp⟩
  revert h; revert a; simp only [Instr.wellFormed]; decide

theorem wrIgnoredSeven (d : Word) : Statement (.wrIgnoredSeven d) := fun _ => selects_whole _ 1#1 7#3 d

end Sys2Proof.Laws.EncodedRow
end

