-- ==== Sys2Proof/Laws/Step.lean ====
section
/-! SUPPORT. The inversion lemma of step: what one step can do. -/

namespace Sys2Proof.Machine

open Sys2Proof

/-- A step that answers a next state did one of these ten things. -/
theorem step_cases {s t : State} (h : step s = .next t) :
    (nextAction s = .wait ∧ t = takeTurn s) ∨
    (∃ i, nextAction s = .instr i ∧ exec i (advance (takeTurn s)) = .next t) ∨
    (∃ r, nextAction s = .reserved r ∧ t = advance (takeTurn s)) ∨
    (∃ v, nextAction s = .driveGie v ∧ t = setGie v (advance (takeTurn s))) ∨
    (nextAction s = .tick ∧ t = tick (takeTurn s)) ∨
    (∃ v, nextAction s = .echoSet v ∧ t = echoSet v (takeTurn s)) ∨
    (nextAction s = .svcEnter ∧ t = svcEnter (takeTurn s)) ∨
    (nextAction s = .svcRun ∧ t = svcRun (takeTurn s)) ∨
    (∃ e p, nextAction s = .reset e p ∧ t = resetStep e p (takeTurn s)) := by
  unfold step at h
  cases ha : nextAction s with
  | wait => rw [ha] at h; cases h; simp
  | instr i => rw [ha] at h; exact .inr (.inl ⟨i, rfl, h⟩)
  | reserved r => rw [ha] at h; cases h; simp [reservedCommand]
  | driveGie v => rw [ha] at h; cases h; simp
  | partialAccess => rw [ha] at h; cases h
  | tick => rw [ha] at h; cases h; simp
  | echoSet v => rw [ha] at h; cases h; simp
  | svcEnter => rw [ha] at h; cases h; simp
  | svcRun => rw [ha] at h; cases h; simp
  | reset e p => rw [ha] at h; cases h; simp

/-- An instruction that is no command leaves the state but for the data it returns. -/
theorem exec_cases {i : Instr} {s t : State} (h : exec i s = .next t) :
    (∃ v, t = busReturn v s) ∨ t = s ∨
    (∃ cs e, i = .icuInit cs e ∧ t = icuConfigure cs e s) ∨
    (∃ b, i = .icuSetCallback b ∧ t = { s with cb := b }) ∨
    (∃ e, i = .icuSetEdge e ∧ t = { s with edge := e }) ∨
    (i = .icuClearCounter ∧ t = { s with tcnt := 0#16 }) ∨
    (i = .icuDeinit ∧ t = { s with cs := 0#3, edge := false, icie := false, tcnt := 0#16, icr := 0#16 }) ∨
    (i = .usInit ∧
      t = { icuConfigure (csCode s.params.prescaler) true s with cb := true, trigOe := true, ec := 0#2 }) ∨
    (i = .usReadDistance ∧ s.ready = false ∧ t = triggerPulse s) ∨
    (i = .usReadDistance ∧ s.ready = true ∧ t = consumeMeasurement (triggerPulse s)) := by
  cases i with
  | rdCtrl d => cases h; exact .inl ⟨_, rfl⟩
  | rdStatus d => cases h; exact .inl ⟨_, rfl⟩
  | rdTcnt d => cases h; exact .inl ⟨_, rfl⟩
  | rdIcr d => cases h; exact .inl ⟨_, rfl⟩
  | rdHtt d => cases h; exact .inl ⟨_, rfl⟩
  | rdDist d => cases h; exact .inl ⟨_, rfl⟩
  | rdZero a d => cases h; exact .inl ⟨_, rfl⟩
  | nop => cases h; simp
  | icuInit cs e => cases h; exact .inr (.inr (.inl ⟨cs, e, rfl, rfl⟩))
  | icuSetCallback b => cases h; exact .inr (.inr (.inr (.inl ⟨b, rfl, rfl⟩)))
  | icuSetEdge e => cases h; exact .inr (.inr (.inr (.inr (.inl ⟨e, rfl, rfl⟩))))
  | icuClearCounter => cases h; simp
  | icuDeinit => cases h; simp
  | usInit => cases h; simp
  | usReadDistance =>
    cases h
    cases hr : s.ready <;> simp
  | wrIgnoredLow a d => cases h; simp
  | wrIgnoredMid a d => cases h; simp
  | wrIgnoredSeven d => cases h; simp

end Sys2Proof.Machine
end

