-- ==== Sys2Proof/Laws/Run.lean ====
section
/-! SUPPORT. Runs of several steps: unfolding, composition, and that they are the host's runs. -/

namespace Sys2Proof.Machine

open Sys2Proof

@[simp] theorem runFor_zero (s : State) : runFor 0 s = .next s := rfl

theorem runFor_succ {s t : State} (h : step s = .next t) (k : Nat) : runFor (k + 1) s = runFor k t := by
  simp [runFor, h]

/-- Runs compose. -/
theorem runFor_add {s t : State} {j : Nat} (h : runFor j s = .next t) (k : Nat) : runFor (j + k) s = runFor k t := by
  induction j generalizing s with
  | zero => cases h; rw [Nat.zero_add]
  | succ j ih =>
    cases hs : step s with
    | next u =>
      rw [runFor_succ hs] at h
      rw [Nat.add_right_comm, runFor_succ hs, ih h]
    | fault f => simp [runFor, hs] at h
    | refused r => simp [runFor, hs] at h

/-- A run of k + 1 steps that answers a next state begins with a step that does. -/
theorem runFor_succ_inv {s t : State} {k : Nat} (h : runFor (k + 1) s = .next t) :
    ∃ u, step s = .next u ∧ runFor k u = .next t := by
  cases hs : step s with
  | next u => exact ⟨u, rfl, by rw [← runFor_succ hs]; exact h⟩
  | fault f => simp [runFor, hs] at h
  | refused r => simp [runFor, hs] at h

/-- The host's runs of this machine are these. -/
theorem runFor_eq_core_run (k : Nat) (s : State) : Host.Core.run Sys2Proof.core k s = runFor k s := by
  induction k generalizing s with
  | zero => rfl
  | succ k ih =>
    cases hs : step s with
    | next u =>
      have hc : Sys2Proof.core.step s = .next u := hs
      simp only [Host.Core.run, hc, runFor, hs]
      exact ih u
    | fault f =>
      have hc : Sys2Proof.core.step s = .fault f := hs
      simp only [Host.Core.run, hc, runFor, hs]
      rfl
    | refused r =>
      have hc : Sys2Proof.core.step s = .refused r := hs
      simp only [Host.Core.run, hc, runFor, hs]
      rfl

end Sys2Proof.Machine
end

