-- ==== Sys2Proof/Tests/Slice0.lean ====
section
/-! SUPPORT. Small tests, expected results from spec/95_test_vectors.md and the encodings of spec/30_encoding.md R63, and
one witness for each statement with hypotheses: `witness_<Name>` for `Obligations.<Name>`. -/

namespace Sys2Proof.Tests

open Sys2Proof Sys2Proof.Machine

/-- After reset, fixture parameters, ECHO_RESET = 0. -/
def base : State := State.resetWith Params.fixture false

/-- The driver's state after `us.init` and `sei` (spec/95_test_vectors.md, program 1, lines 1 and 2). -/
def ready : State :=
  { base with cs := 2#3, edge := true, icie := true, cb := true, trigOe := true, gie := true }

/-- One agent's turn comes next. -/
def turn (t : Turn) (s : State) : State := { s with turns := [t] }

/-- The host issues one item next. -/
def host (item : HostItem) (s : State) : State := { s with turns := [.host], program := [item] }

/-- The action is the next one, and the step completes. -/
def Steps (s : State) (a : Action) : Prop := nextAction s = a ∧ ∃ t, step s = .next t

/-! Ill-formed terms are refused -/

theorem test_wellFormed_rdZero : (Instr.rdZero 5#3 0#16).wellFormed = false := by decide
theorem test_wellFormed_wrIgnoredLow : (Instr.wrIgnoredLow 4#3 0#16).wellFormed = false := by decide
theorem test_wellFormed_wrIgnoredMid : (Instr.wrIgnoredMid 6#3 0#16).wellFormed = false := by decide

/-! Decoding: words written out from the encoding strings of R63 -/

theorem test_decode_rdCtrl : decode 0b0000_0000000000000000#20 = .instr (.rdCtrl 0#16) := by decide
theorem test_decode_rdStatus : decode 0b0001_1000000000000001#20 = .instr (.rdStatus 0x8001#16) := by decide
theorem test_decode_rdTcnt : decode 0b0010_0000000000000000#20 = .instr (.rdTcnt 0#16) := by decide
theorem test_decode_rdIcr : decode 0b0011_1111111111111111#20 = .instr (.rdIcr 0xFFFF#16) := by decide
theorem test_decode_rdHtt : decode 0b0100_0000000000000001#20 = .instr (.rdHtt 1#16) := by decide
theorem test_decode_rdDist : decode 0b0101_0000000000000000#20 = .instr (.rdDist 0#16) := by decide
theorem test_decode_rdZero :
    decode 0b0110_0000000000000000#20 = .instr (.rdZero 6#3 0#16) ∧
    decode 0b0111_0000000000000000#20 = .instr (.rdZero 7#3 0#16) := by decide
theorem test_decode_nop : decode 0b1110_0000000000000000#20 = .instr .nop := by decide
theorem test_decode_icuInit :
    decode 0b1110_0001_0000_0000_1010#20 = .instr (.icuInit 2#3 true) ∧
    decode 0b1110_0001_0000_0000_0101#20 = .instr (.icuInit 5#3 false) := by decide
theorem test_decode_icuSetCallback :
    decode 0b1110_0010_0000_0000_0001#20 = .instr (.icuSetCallback true) ∧
    decode 0b1110_0010_0000_0000_0000#20 = .instr (.icuSetCallback false) := by decide
theorem test_decode_icuSetEdge :
    decode 0b1110_0011_0000_0000_1000#20 = .instr (.icuSetEdge true) ∧
    decode 0b1110_0011_0000_0000_0000#20 = .instr (.icuSetEdge false) := by decide
theorem test_decode_icuClearCounter : decode 0b1110_0100_0000_0000_0000#20 = .instr .icuClearCounter := by decide
theorem test_decode_icuDeinit : decode 0b1110_0101_0000_0000_0000#20 = .instr .icuDeinit := by decide
theorem test_decode_usInit : decode 0b1110_1000_0000_0000_0000#20 = .instr .usInit := by decide
theorem test_decode_usReadDistance : decode 0b1110_1001_0000_0000_0000#20 = .instr .usReadDistance := by decide
theorem test_decode_wrIgnoredLow :
    decode 0b1000_0000000000000000#20 = .instr (.wrIgnoredLow 0#3 0#16) ∧
    decode 0b1010_0001001000110100#20 = .instr (.wrIgnoredLow 2#3 0x1234#16) ∧
    decode 0b1011_1111111111111111#20 = .instr (.wrIgnoredLow 3#3 0xFFFF#16) := by decide
theorem test_decode_wrIgnoredMid :
    decode 0b1100_0000000000000111#20 = .instr (.wrIgnoredMid 4#3 7#16) ∧
    decode 0b1101_0000000000000000#20 = .instr (.wrIgnoredMid 5#3 0#16) := by decide
theorem test_decode_wrIgnoredSeven : decode 0b1111_0001000000000000#20 = .instr (.wrIgnoredSeven 0x1000#16) := by decide

/-- The reserved words of spec/95_test_vectors.md §2.2 and §2.7. -/
theorem test_decode_reserved :
    [0xE6000#20, 0xE7000#20, 0xEA000#20, 0xEF000#20].map decode =
      [.reserved (.opcode 6#4), .reserved (.opcode 7#4), .reserved (.opcode 10#4), .reserved (.opcode 15#4)] ∧
    [0xE1010#20, 0xE2003#20, 0xE3001#20, 0xE9001#20].map decode =
      [.reserved (.operandBits 1#4), .reserved (.operandBits 2#4), .reserved (.operandBits 3#4),
       .reserved (.operandBits 9#4)] := by decide

/-- The host's view of the decoder; 24 bits hold a 20-bit word below four zero bits. -/
theorem test_decodeTableWord :
    decodeTableWord 24 0xE100A = some (.icuInit 2#3 true) ∧ decodeTableWord 20 0xE9000 = some .usReadDistance ∧
    decodeTableWord 24 0xE7000 = none ∧ decodeTableWord 24 0x100000 = none := by decide

/-- The table as the host numbers it: every row's match word is an instruction of that row. -/
theorem test_table_rows_decode :
    opcodeTable.map (fun r => (decodeTableWord 24 r.pattern.toNat).map Instr.row) = opcodeTable.map some := by decide

/-- The first word placed after reset runs. -/
theorem test_first_word_runs :
    (∃ t, step (State.reset.withFetchWord 24 0x00000) = .next t ∧ t.reads = [0#16] ∧ t.program = [] ∧ t.index = 1) ∧
    (∃ t, step (State.reset.withFetchWord 24 0xE100F) = .next t ∧ t.cs = 7#3 ∧ t.edge = true ∧ t.icie = true) :=
  ⟨⟨_, rfl, rfl, rfl, rfl⟩, ⟨_, rfl, rfl, rfl, rfl⟩⟩

/-- The words of the assembler's lines (30_encoding.md R75, R76). -/
theorem test_assemble :
    assemble (.icuInit 2#3 true) = [.trans 0xE100A#20] ∧ (AsmLine.icuInit 2#3 true).text = "icu.init cs=div8, edge=rising" ∧
    assemble .usReadDistance = [.trans 0xE9000#20, .trans 0x50000#20] ∧
    assemble .icuReadCapture = [.trans 0x30000#20] ∧
    assemble (.icuSetcbMasked true) = [.cli, .trans 0xE2001#20, .sei] ∧
    assemble (.wr 6#3 0x7000#16) = [.trans 0xE7000#20] := by decide

/-! One instruction each (spec/95_test_vectors.md §2.1, §2.2, §2.7) -/

theorem test_rdCtrl : exec (.rdCtrl 0#16) ready = .next { ready with reads := [0x007A#16] } := rfl
theorem test_rdStatus :
    (let s := { base with ec := 1#2, ready := true, icf := true, icie := true }
     exec (.rdStatus 0#16) s = .next { s with reads := [0x0017#16] }) ∧
    (let s := { base with icf := true }
     exec (.rdStatus 0#16) s = .next { s with reads := [0x0001#16] }) := ⟨rfl, rfl⟩
theorem test_rdTcnt :
    let s := { base with tcnt := 0xFFFF#16 }
    exec (.rdTcnt 0#16) s = .next { s with reads := [0xFFFF#16] } := rfl
theorem test_rdIcr :
    let s := { base with icr := 0x0BB8#16 }
    exec (.rdIcr 0xFFFF#16) s = .next { s with reads := [0x0BB8#16] } := rfl
theorem test_rdHtt :
    let s := { base with htt := 7000#16 }
    exec (.rdHtt 0#16) s = .next { s with reads := [0x1B58#16] } := rfl
theorem test_rdDist :
    let s := { base with dist := 62#16 }
    exec (.rdDist 0#16) s = .next { s with reads := [0x003E#16] } := rfl
theorem test_rdZero : exec (.rdZero 7#3 1#16) ready = .next { ready with reads := [0#16] } := rfl
theorem test_nop : exec .nop ready = .next ready := rfl
theorem test_icuInit :
    let s := { base with tcnt := 5#16, icr := 9#16, icf := true, cs := 2#3, edge := true }
    exec (.icuInit 0#3 false) s = .next { base with icie := true } := rfl
theorem test_icuSetCallback : exec (.icuSetCallback false) ready = .next { ready with cb := false } := rfl
theorem test_icuSetEdge :
    let s := { base with edge := true, tcnt := 77#16 }
    exec (.icuSetEdge false) s = .next { base with edge := false, tcnt := 77#16 } := rfl
theorem test_icuClearCounter :
    let s := { base with tcnt := 0x1234#16, icr := 0x0100#16, icf := true }
    exec .icuClearCounter s = .next { base with icr := 0x0100#16, icf := true } := rfl
theorem test_icuDeinit :
    let s := { ready with icf := true, ec := 1#2, ready := true, tcnt := 3#16, icr := 4#16 }
    exec .icuDeinit s =
      .next { base with icf := true, ec := 1#2, ready := true, cb := true, trigOe := true, gie := true } := rfl
theorem test_usInit :
    let s := { base with ec := 1#2, edge := false, ready := true, htt := 7000#16, dist := 26#16, gie := true }
    exec .usInit s = .next { ready with ready := true, htt := 7000#16, dist := 26#16 } := rfl
theorem test_usReadDistance :
    (let s := { ready with ready := true, htt := 7000#16 }
     exec .usReadDistance s =
       .next { ready with htt := 7000#16, dist := 62#16, history := [.trigPulse 10 true] }) ∧
    exec .usReadDistance base = .next { base with history := [.trigPulse 10 false] } := ⟨rfl, rfl⟩
theorem test_wrIgnoredLow :
    let s := { base with tcnt := 100#16 }
    exec (.wrIgnoredLow 2#3 0x1234#16) s = .next s := rfl
theorem test_wrIgnoredMid : exec (.wrIgnoredMid 5#3 1#16) ready = .next ready := rfl
theorem test_wrIgnoredSeven : exec (.wrIgnoredSeven 0x1000#16) ready = .next ready := rfl

/-! Converter and bias (spec/95_test_vectors.md §2.6) -/

theorem test_distance_fixture :
    [0#16, 1#16, 116#16, 117#16, 6763#16, 6764#16, 14927#16, 14928#16].map (distanceWord Params.fixture) =
      [0#16, 1#16, 1#16, 2#16, 58#16, 60#16, 129#16, 131#16] ∧
    [39883#16, 39884#16, 40000#16, 40001#16, 46647#16].map (distanceWord Params.fixture) =
      [346#16, 348#16, 348#16, 349#16, 405#16] := by decide
theorem test_distance_prescalers :
    distanceWord { Params.fixture with prescaler := .div1 } 65535#16 = 72#16 ∧
    distanceWord { Params.fixture with prescaler := .div64 } 3000#16 = 209#16 ∧
    distanceWord { Params.fixture with prescaler := .div256 } 65535#16 = 17988#16 ∧
    distanceWord { Params.fixture with prescaler := .div1024 } 40000#16 = 43909#16 := by decide
theorem test_bias_boundaries :
    [0, 58, 59, 128, 129, 198, 199, 269, 270, 342, 343, 65535].map bias = [0, 0, 1, 1, 2, 2, 3, 3, 4, 4, 5, 5] := by
  decide

/-! Events and the service (spec/95_test_vectors.md §2.3, §2.4, §2.5) -/

theorem test_tick_external :
    let s := { base with cs := 6#3, tcnt := 3#16 }
    step (turn .tick s) = .next { s with tcnt := 4#16 } := rfl
theorem test_capture_lost :
    let s := { base with icf := true, icr := 10#16, edge := true, tcnt := 25#16 }
    step (turn (.echoSet true) s) = .next { s with echo := true, icr := 25#16 } := rfl
theorem test_no_transition_no_capture :
    let s := { base with edge := true, echo := true, tcnt := 25#16 }
    step (turn (.echoSet true) s) = .next s := rfl
theorem test_svcEnter : step (turn .svcEnter { ready with icf := true }) = .next { ready with insvc := true } := rfl
theorem test_svcRun_first :
    step (turn .svcRun { ready with insvc := true, tcnt := 900#16 }) = .next { ready with ec := 1#2, edge := false } := rfl
theorem test_svcRun_second :
    step (turn .svcRun { ready with insvc := true, ec := 1#2, edge := false, icr := 3000#16 }) =
      .next { ready with htt := 3000#16, ready := true, icr := 3000#16 } := rfl
theorem test_svcRun_illegal_ec :
    step (turn .svcRun { ready with insvc := true, ec := 2#2 }) = .next { ready with ec := 2#2 } := rfl
theorem test_svcRun_no_callback :
    step (turn .svcRun { ready with insvc := true, cb := false }) = .next { ready with cb := false } := rfl
theorem test_cli : step (host .cli ready) = .next { ready with gie := false, index := 1 } := rfl
theorem test_host_held : step (host .cli { ready with insvc := true }) = .next { ready with insvc := true, program := [.cli] } :=
  rfl
theorem test_mapped_store :
    step (host (.mapped (.store 12 [0x00#8, 0xE0#8])) ready) = .next { ready with index := 1 } ∧
    step (host (.mapped (.store 12 [0x00#8])) ready) = .refused .partialRegisterAccess := ⟨rfl, rfl⟩

/-! Witnesses: encoding -/

theorem witness_DecodeInvertsEncode :
    (Instr.rdZero 6#3 0xFFFF#16).wellFormed = true ∧ (Instr.rdZero 7#3 0#16).wellFormed = true ∧
    (Instr.wrIgnoredLow 0#3 1#16).wellFormed = true ∧ (Instr.wrIgnoredLow 3#3 1#16).wellFormed = true ∧
    (Instr.wrIgnoredMid 4#3 1#16).wellFormed = true ∧ (Instr.wrIgnoredMid 5#3 1#16).wellFormed = true ∧
    (Instr.icuInit 7#3 true).wellFormed = true := by decide
theorem witness_EncodeInvertsDecode : decode 0xE1007#20 = .instr (.icuInit 7#3 false) := by decide
theorem witness_DecodeAgreesWithOpcodeTable :
    decode 0xBFFFF#20 = .instr (.wrIgnoredLow 3#3 0xFFFF#16) ∧
    opcodeTable.filter (fun r => r.selects 0xE7000#20) = [] ∧
    opcodeTable.filter (fun r => r.selects 0xE0001#20) = [] ∧
    decode 0xEF000#20 = .reserved (.opcode 15#4) ∧ decode 0xE0001#20 = .reserved (.operandBits 0#4) ∧
    decode 0xE1007#20 = .instr (.icuInit 7#3 false) ∧ decode 0xE2001#20 = .instr (.icuSetCallback true) ∧
    decode 0xE3008#20 = .instr (.icuSetEdge true) ∧
    (Instr.rdZero 6#3 0#16).row = (Instr.rdZero 7#3 1#16).row ∧
    (Instr.rdZero 6#3 0#16).row.mask &&& 0x0FFFF#20 = 0#20 := by decide
theorem witness_ReservedCommandsHaveNoEffect :
    nextTurn (host (.trans 0xE7000#20) ready) = .host ∧ (host (.trans 0xE7000#20) ready).insvc = false ∧
    (host (.trans 0xE7000#20) ready).program = [.trans 0xE7000#20] ∧
    decode 0xE7000#20 = .reserved (.opcode 7#4) ∧ decode 0xE3001#20 = .reserved (.operandBits 3#4) := by decide
theorem witness_WritesOutsideCmdChangeNothing :
    ([0x80000#20, 0xBFFFF#20, 0xC0000#20, 0xDFFFF#20, 0xF0000#20].map txW = [1#1, 1#1, 1#1, 1#1, 1#1] ∧
     [0x80000#20, 0xBFFFF#20, 0xC0000#20, 0xDFFFF#20, 0xF0000#20].map txA = [0#3, 3#3, 4#3, 5#3, 7#3]) ∧
    (let s := host (.trans 0xE4000#20) { ready with tcnt := 9#16 }
     nextTurn s = .host ∧ ∃ t, step s = .next t ∧ t.tcnt ≠ s.tcnt) := ⟨by decide, rfl, _, rfl, by decide⟩

/-! Witnesses: reads -/

theorem witness_RdCtrlReturnsConfiguration :
    base.params.prescaler = .div8 ∧ ∃ t, exec .usInit base = .next t := ⟨rfl, _, rfl⟩
theorem witness_RdStatusReturnsFlags :
    EcLegal base ∧ EcLegal { base with ec := 1#2 } ∧
    nextAction (host (.trans 0x10000#20) base) = .instr (.rdStatus 0#16) ∧
    (let s := { base with ready := true }
     s.icf = false ∧ s.ready = true ∧ s.ec = 0#2) := by decide
theorem witness_DataReadsReturnRegisters :
    (∃ t, exec (.icuInit 2#3 true) base = .next t) ∧ (∃ t, exec .icuDeinit ready = .next t) ∧
    (∃ t, exec .usInit ready = .next t) ∧
    (let s := { ready with insvc := true, ec := 1#2, edge := false, icr := 3000#16 }
     s.cb = true ∧ s.ec = 1#2) := ⟨⟨_, rfl⟩, ⟨_, rfl⟩, ⟨_, rfl⟩, rfl, rfl⟩
theorem witness_OnlyCommandsChangeState :
    let s := host (.trans 0xA1234#20) base
    nextTurn s = .host ∧ s.insvc = false ∧ s.program = [.trans 0xA1234#20] ∧
    ¬ (txW 0xA1234#20 = 1#1 ∧ txA 0xA1234#20 = 6#3) ∧ ¬ (txW 0x6FFFF#20 = 1#1 ∧ txA 0x6FFFF#20 = 6#3) := by decide

/-! Witnesses: commands -/

theorem witness_NopChangesNothing : (1#12 : BitVec 12) ≠ 0#12 ∧ (0x800#12 : BitVec 12) ≠ 0#12 := by decide
theorem witness_IcuInitConfiguresTimer : ∃ t, exec (.icuInit 2#3 true) (State.resetWith Params.fixture true) = .next t :=
  ⟨_, rfl⟩
theorem witness_IcuSetCallbackInstallsHandle :
    ∃ t, exec (.icuSetCallback false) (turn .svcEnter { ready with icf := true }) = .next t ∧ nextTurn t = .svcEnter ∧
      t.icf = true ∧ t.icie = true ∧ t.gie = true ∧ t.insvc = false := ⟨_, rfl, rfl, rfl, rfl, rfl, rfl⟩
theorem witness_IcuSetEdgeSwitchesPolarity : ready.edge = true ∧ ∃ t, exec (.icuSetEdge true) ready = .next t :=
  ⟨rfl, _, rfl⟩
theorem witness_IcuClearCounterZeroesCount :
    (turn .tick base).cs = 0#3 ∧ nextTurn (turn .tick base) = .tick ∧
    ∃ t, exec .icuClearCounter { ready with tcnt := 0xFFFF#16 } = .next t := ⟨rfl, rfl, _, rfl⟩
theorem witness_IcuDeinitStopsTimer :
    (∃ t, exec .icuDeinit { ready with echo := true } = .next t) ∧ ({ ready with echo := true } : State).echo = true ∧
    ∃ t u, exec .usInit base = .next t ∧ exec .icuDeinit t = .next u := ⟨⟨_, rfl⟩, rfl, _, _, rfl, rfl⟩
theorem witness_UsInitStartsDriver :
    Params.fixture.prescaler = .div8 ∧ ∃ t, exec .usInit (State.resetWith Params.fixture true) = .next t := ⟨rfl, _, rfl⟩
theorem witness_UsReadDistanceTriggersAndConsumes :
    base.ready = false ∧
    (let s := { ready with ready := true }
     s.ready = true ∧ s.htt = 0#16 ∧ ∃ t, exec .usReadDistance s = .next t) ∧
    (let s := { ready with ready := true, htt := 3000#16 }
     s.params = Params.fixture ∧ s.ready = true ∧ s.htt = 3000#16 ∧ s.trigOe = true ∧
       ∃ t, exec .usReadDistance s = .next t) :=
  ⟨rfl, ⟨rfl, rfl, _, rfl⟩, ⟨rfl, rfl, rfl, rfl, _, rfl⟩⟩
/-- Both ends of each range. -/
theorem witness_BiasTableIntervals :
    0 < 59 ∧ 58 < 59 ∧ (59 ≤ 59 ∧ 59 < 129) ∧ (59 ≤ 128 ∧ 128 < 129) ∧ (129 ≤ 129 ∧ 129 < 199) ∧
    (129 ≤ 198 ∧ 198 < 199) ∧ (199 ≤ 199 ∧ 199 < 270) ∧ (199 ≤ 269 ∧ 269 < 270) ∧ (270 ≤ 270 ∧ 270 < 343) ∧
    (270 ≤ 342 ∧ 342 < 343) ∧ 343 ≤ 343 ∧ 343 ≤ 71932 := by decide
theorem witness_StoredDistanceWraps :
    let s := { ready with ready := true, htt := 0xFFFF#16 }
    s.ready = true ∧ ∃ t, exec .usReadDistance s = .next t := ⟨rfl, _, rfl⟩
theorem witness_CorrectedDistanceMonotone : 0 ≤ 65535 ∧ 6763 ≤ 6764 := by decide
theorem witness_ConverterUsesBuildPrescaler :
    ∃ t u v w, exec .usInit ready = .next t ∧ exec .usReadDistance ready = .next u ∧
      exec (.icuInit 5#3 true) ready = .next v ∧ exec .usReadDistance v = .next w := ⟨_, _, _, _, rfl, rfl, rfl, rfl⟩

/-! Witnesses: timer, capture, service -/

theorem witness_TickCountsWhenClocked :
    (let s := turn .tick { base with cs := 1#3 }
     nextTurn s = .tick ∧ s.cs ≠ 0#3) ∧
    (let s := turn .tick { base with cs := 7#3, tcnt := 0xFFFF#16 }
     nextTurn s = .tick ∧ s.cs ≠ 0#3 ∧ s.tcnt = 0xFFFF#16) ∧
    nextTurn (turn .tick base) = .tick ∧ (turn .tick base).cs = 0#3 := by decide
theorem witness_EchoEdgeCaptures :
    (let s := turn (.echoSet true) { base with edge := true }
     nextTurn s = .echoSet true ∧ s.echo = false ∧ s.edge = true) ∧
    (let s := turn (.echoSet false) { base with echo := true }
     nextTurn s = .echoSet false ∧ s.echo = true ∧ s.edge = false) ∧
    (let s := turn (.echoSet true) base
     nextTurn s = .echoSet true ∧ s.echo = false ∧ s.edge = false) ∧
    (let s := turn (.echoSet true) { base with echo := true, edge := true }
     nextTurn s = .echoSet true ∧ s.echo = true) := by decide
/-- Two states that differ in CS, ICIE, CB, GIE and INSVC. -/
theorem witness_CaptureIgnoresMasks :
    let s := turn (.echoSet true) { ready with insvc := true }
    let t := turn (.echoSet true) { base with edge := true }
    nextTurn s = .echoSet true ∧ nextTurn t = .echoSet true ∧ s.echo = t.echo ∧ s.edge = t.edge ∧ s.tcnt = t.tcnt ∧
      s.icr = t.icr ∧ s.icf = t.icf ∧ (∃ s', step s = .next s') ∧ ∃ t', step t = .next t' :=
  ⟨rfl, rfl, rfl, rfl, rfl, rfl, rfl, ⟨_, rfl⟩, ⟨_, rfl⟩⟩
theorem witness_LostCaptureReadsNewerCount :
    (let s := { ready with
      turns := [.echoSet false, .svcEnter, .svcRun, .svcEnter], icf := true, echo := true, edge := false, ec := 1#2 }
     s.turns = .echoSet false :: .svcEnter :: .svcRun :: .svcEnter :: [] ∧ s.icf = true ∧ s.echo = true ∧
     s.edge = false ∧ s.icie = true ∧ s.gie = true ∧ s.insvc = false ∧ s.cb = true ∧ s.ec = 1#2) ∧
    (let s := { ready with
      turns := [.echoSet false, .svcRun, .svcEnter], insvc := true, echo := true, edge := false, ec := 1#2 }
     s.turns = .echoSet false :: .svcRun :: .svcEnter :: [] ∧ s.insvc = true ∧ s.echo = true ∧ s.edge = false ∧
     s.icie = true ∧ s.gie = true ∧ s.cb = true ∧ s.ec = 1#2) := by decide
theorem witness_SvcEnterTakesInterrupt :
    (let s := turn .svcEnter { ready with icf := true }
     nextTurn s = .svcEnter ∧ s.icf = true ∧ s.icie = true ∧ s.gie = true ∧ s.insvc = false) ∧
    (let s := turn .svcEnter { ready with icf := true, gie := false }
     nextTurn s = .svcEnter ∧ ¬ (s.icf = true ∧ s.icie = true ∧ s.gie = true ∧ s.insvc = false)) := by decide
theorem witness_SvcRunAdvancesMeasurement :
    (nextTurn (turn .svcRun ready) = .svcRun ∧ (turn .svcRun ready).insvc = false) ∧
    (let s := turn .svcRun { ready with insvc := true, cb := false }
     nextTurn s = .svcRun ∧ s.insvc = true ∧ s.cb = false) ∧
    (let s := turn .svcRun { ready with insvc := true }
     nextTurn s = .svcRun ∧ s.insvc = true ∧ s.cb = true ∧ s.ec = 0#2) ∧
    (let s := turn .svcRun { ready with insvc := true, ec := 1#2 }
     nextTurn s = .svcRun ∧ s.insvc = true ∧ s.cb = true ∧ s.ec = 1#2) ∧
    (let s := turn .svcRun { ready with insvc := true, ec := 3#2 }
     nextTurn s = .svcRun ∧ s.insvc = true ∧ s.cb = true ∧ (s.ec = 2#2 ∨ s.ec = 3#2)) := by decide
theorem witness_HostHeldDuringService :
    let s := { ready with insvc := true }
    s.insvc = true ∧ nextTurn (host .sei s) = .host ∧ nextTurn (turn .tick s) = .tick ∧ s.cs ≠ 0#3 ∧
      nextTurn (turn (.echoSet true) s) = .echoSet true ∧ nextTurn (turn .svcRun s) = .svcRun := by decide
theorem witness_HostDrivesGie :
    (nextTurn (host .sei base) = .host ∧ (host .sei base).insvc = false ∧ (host .sei base).program = [.sei]) ∧
    (nextTurn (host .cli ready) = .host ∧ (host .cli ready).insvc = false ∧ (host .cli ready).program = [.cli]) ∧
    (let s := host .sei { ready with insvc := true }
     s.insvc = true ∧ nextTurn s = .host) ∧
    (let s := turn .svcEnter { ready with icf := true }
     nextTurn s = .svcEnter ∧ ∃ t, step s = .next t) :=
  ⟨⟨rfl, rfl, rfl⟩, ⟨rfl, rfl, rfl⟩, ⟨rfl, rfl⟩, ⟨rfl, _, rfl⟩⟩

/-! Witnesses: each register after one step; one state for each action a clause names -/

theorem witness_IcfAfterStep :
    Steps (turn (.echoSet true) ready) (.echoSet true) ∧ Steps (turn .svcEnter { ready with icf := true }) .svcEnter ∧
    Steps (host (.trans 0xE1000#20) ready) (.instr (.icuInit 0#3 false)) ∧
    Steps (host (.trans 0xE8000#20) ready) (.instr .usInit) ∧ Steps (turn (.reset true []) ready) (.reset true []) ∧
    Steps (turn .tick base) .wait :=
  ⟨⟨rfl, _, rfl⟩, ⟨rfl, _, rfl⟩, ⟨rfl, _, rfl⟩, ⟨rfl, _, rfl⟩, ⟨rfl, _, rfl⟩, ⟨rfl, _, rfl⟩⟩
theorem witness_ReadyAfterStep :
    Steps (turn .svcRun { ready with insvc := true, ec := 1#2 }) .svcRun ∧
    Steps (turn .svcRun { ready with insvc := true, cb := false }) .svcRun ∧
    Steps (host (.trans 0xE9000#20) ready) (.instr .usReadDistance) ∧ Steps (turn (.reset true []) ready) (.reset true []) ∧
    Steps (turn .tick ready) .tick :=
  ⟨⟨rfl, _, rfl⟩, ⟨rfl, _, rfl⟩, ⟨rfl, _, rfl⟩, ⟨rfl, _, rfl⟩, ⟨rfl, _, rfl⟩⟩
theorem witness_EcAfterStep :
    Steps (turn .svcRun { ready with insvc := true }) .svcRun ∧
    Steps (turn .svcRun { ready with insvc := true, ec := 1#2 }) .svcRun ∧
    Steps (turn .svcRun { ready with insvc := true, ec := 2#2 }) .svcRun ∧
    Steps (host (.trans 0xE8000#20) ready) (.instr .usInit) ∧ Steps (turn (.reset true []) ready) (.reset true []) ∧
    Steps (host .sei ready) (.driveGie true) ∧ EcLegal ready ∧ EcLegal { ready with ec := 1#2 } :=
  ⟨⟨rfl, _, rfl⟩, ⟨rfl, _, rfl⟩, ⟨rfl, _, rfl⟩, ⟨rfl, _, rfl⟩, ⟨rfl, _, rfl⟩, ⟨rfl, _, rfl⟩, .inl rfl, .inr rfl⟩
theorem witness_TcntAfterStep :
    Steps (turn .tick { ready with tcnt := 0xFFFF#16 }) .tick ∧
    Steps (turn .svcRun { ready with insvc := true }) .svcRun ∧
    Steps (host (.trans 0xE4000#20) ready) (.instr .icuClearCounter) ∧
    Steps (host (.trans 0xE1000#20) ready) (.instr (.icuInit 0#3 false)) ∧
    Steps (host (.trans 0xE5000#20) ready) (.instr .icuDeinit) ∧
    Steps (host (.trans 0xE8000#20) ready) (.instr .usInit) ∧ Steps (turn (.reset false []) ready) (.reset false []) ∧
    Steps (host (.trans 0xE7000#20) ready) (.reserved (.opcode 7#4)) :=
  ⟨⟨rfl, _, rfl⟩, ⟨rfl, _, rfl⟩, ⟨rfl, _, rfl⟩, ⟨rfl, _, rfl⟩, ⟨rfl, _, rfl⟩, ⟨rfl, _, rfl⟩, ⟨rfl, _, rfl⟩,
    ⟨rfl, _, rfl⟩⟩
theorem witness_IcrAfterStep :
    Steps (turn (.echoSet true) ready) (.echoSet true) ∧ Steps (turn (.echoSet false) ready) (.echoSet false) ∧
    Steps (host (.trans 0xE1000#20) ready) (.instr (.icuInit 0#3 false)) ∧
    Steps (host (.trans 0xE5000#20) ready) (.instr .icuDeinit) ∧
    Steps (host (.trans 0xE8000#20) ready) (.instr .usInit) ∧ Steps (turn (.reset false []) ready) (.reset false []) ∧
    Steps (host (.trans 0x30000#20) ready) (.instr (.rdIcr 0#16)) :=
  ⟨⟨rfl, _, rfl⟩, ⟨rfl, _, rfl⟩, ⟨rfl, _, rfl⟩, ⟨rfl, _, rfl⟩, ⟨rfl, _, rfl⟩, ⟨rfl, _, rfl⟩, ⟨rfl, _, rfl⟩⟩
theorem witness_HttAfterStep :
    Steps (turn .svcRun { ready with insvc := true, ec := 1#2, icr := 80#16 }) .svcRun ∧
    (∃ t, step (turn .svcRun { ready with insvc := true, ec := 1#2, icr := 80#16 }) = .next t ∧ t.htt ≠ 0#16) ∧
    Steps (turn .svcRun { ready with insvc := true, htt := 9#16 }) .svcRun ∧
    Steps (turn (.reset false []) ready) (.reset false []) ∧ Steps (turn .tick ready) .tick :=
  ⟨⟨rfl, _, rfl⟩, ⟨_, rfl, by decide⟩, ⟨rfl, _, rfl⟩, ⟨rfl, _, rfl⟩, ⟨rfl, _, rfl⟩⟩
theorem witness_DistAfterStep :
    Steps (host (.trans 0xE9000#20) { ready with ready := true, htt := 7000#16 }) (.instr .usReadDistance) ∧
    Steps (host (.trans 0xE9000#20) { ready with dist := 62#16 }) (.instr .usReadDistance) ∧
    Steps (turn (.reset false []) ready) (.reset false []) ∧
    Steps (host (.trans 0x50000#20) ready) (.instr (.rdDist 0#16)) :=
  ⟨⟨rfl, _, rfl⟩, ⟨rfl, _, rfl⟩, ⟨rfl, _, rfl⟩, ⟨rfl, _, rfl⟩⟩
theorem witness_CtrlFieldsAfterStep :
    Steps (host (.trans 0xE100F#20) ready) (.instr (.icuInit 7#3 true)) ∧
    Steps (host (.trans 0xE3000#20) ready) (.instr (.icuSetEdge false)) ∧
    Steps (host (.trans 0xE2000#20) ready) (.instr (.icuSetCallback false)) ∧
    Steps (host (.trans 0xE5000#20) ready) (.instr .icuDeinit) ∧
    Steps (host (.trans 0xE8000#20) ready) (.instr .usInit) ∧
    Steps (turn .svcRun { ready with insvc := true }) .svcRun ∧
    Steps (turn .svcRun { ready with insvc := true, ec := 1#2 }) .svcRun ∧
    Steps (turn (.reset false []) ready) (.reset false []) ∧ Steps (turn .svcEnter ready) .wait :=
  ⟨⟨rfl, _, rfl⟩, ⟨rfl, _, rfl⟩, ⟨rfl, _, rfl⟩, ⟨rfl, _, rfl⟩, ⟨rfl, _, rfl⟩, ⟨rfl, _, rfl⟩, ⟨rfl, _, rfl⟩,
    ⟨rfl, _, rfl⟩, ⟨rfl, _, rfl⟩⟩
theorem witness_HistoryAfterStep :
    Steps (host (.trans 0xE9000#20) ready) (.instr .usReadDistance) ∧
    Steps (turn (.reset false []) { ready with history := [.trigPulse 10 true] }) (.reset false []) ∧
    Steps (turn .tick { ready with history := [.trigPulse 10 true] }) .tick ∧
    Steps (host (.trans 0x00000#20) ready) (.instr (.rdCtrl 0#16)) ∧
    Steps (host (.trans 0x10000#20) ready) (.instr (.rdStatus 0#16)) ∧
    Steps (host (.trans 0x20000#20) ready) (.instr (.rdTcnt 0#16)) ∧
    Steps (host (.trans 0x30000#20) ready) (.instr (.rdIcr 0#16)) ∧
    Steps (host (.trans 0x40000#20) ready) (.instr (.rdHtt 0#16)) ∧
    Steps (host (.trans 0x50000#20) ready) (.instr (.rdDist 0#16)) ∧
    Steps (host (.trans 0x7FFFF#20) ready) (.instr (.rdZero 7#3 0xFFFF#16)) :=
  ⟨⟨rfl, _, rfl⟩, ⟨rfl, _, rfl⟩, ⟨rfl, _, rfl⟩, ⟨rfl, _, rfl⟩, ⟨rfl, _, rfl⟩, ⟨rfl, _, rfl⟩, ⟨rfl, _, rfl⟩, ⟨rfl, _, rfl⟩,
    ⟨rfl, _, rfl⟩, ⟨rfl, _, rfl⟩⟩
theorem witness_ServiceFlagAndInputsAfterStep :
    Steps (turn .svcEnter { ready with icf := true }) .svcEnter ∧
    Steps (turn .svcRun { ready with insvc := true }) .svcRun ∧
    Steps (turn (.reset true []) ready) (.reset true []) ∧ Steps (turn (.echoSet true) ready) (.echoSet true) ∧
    Steps (host .sei ready) (.driveGie true) ∧ Steps (host .cli ready) (.driveGie false) ∧
    Steps (host (.trans 0xE0000#20) ready) (.instr .nop) :=
  ⟨⟨rfl, _, rfl⟩, ⟨rfl, _, rfl⟩, ⟨rfl, _, rfl⟩, ⟨rfl, _, rfl⟩, ⟨rfl, _, rfl⟩, ⟨rfl, _, rfl⟩, ⟨rfl, _, rfl⟩⟩
theorem witness_HostPositionAfterStep :
    Steps (host (.trans 0xE0000#20) ready) (.instr .nop) ∧
    Steps (host (.trans 0xE7000#20) ready) (.reserved (.opcode 7#4)) ∧ Steps (host .sei ready) (.driveGie true) ∧
    Steps (turn (.reset true [.sei]) ready) (.reset true [.sei]) ∧ Steps (turn .tick ready) .tick :=
  ⟨⟨rfl, _, rfl⟩, ⟨rfl, _, rfl⟩, ⟨rfl, _, rfl⟩, ⟨rfl, _, rfl⟩, ⟨rfl, _, rfl⟩⟩
theorem witness_ParametersNeverChange : ∃ t, step (turn (.reset true []) ready) = .next t := ⟨_, rfl⟩

/-! Witnesses: invariants, reset, the step as a whole -/

/-- A pulse is already on record and another is emitted. -/
theorem witness_StepKeepsLegalState :
    let s := host (.trans 0xE9000#20) { ready with history := [.trigPulse 10 true], ec := 1#2 }
    (EcLegal s ∧ PulsesWide s) ∧ ∃ t, step s = .next t := by
  refine ⟨⟨.inr rfl, ?_⟩, _, rfl⟩
  intro e he
  cases List.mem_singleton.mp he
  exact ⟨rfl, by decide⟩
theorem witness_DriverInvariantKept :
    Steps (host (.trans 0xE8000#20) base) (.instr .usInit) ∧
    (let s := turn .svcRun { ready with insvc := true, ec := 1#2, edge := false }
     DriverInv s ∧ keepsDriverInv (nextAction s) = true ∧ s.cb = true ∧ s.ec = 1#2 ∧ Steps s .svcRun) ∧
    (let s := turn .tick { ready with ready := true }
     DriverInv s ∧ keepsDriverInv (nextAction s) = true ∧ nextAction s ≠ .svcRun ∧
       ∃ t, step s = .next t ∧ t.ready = true) :=
  ⟨⟨rfl, _, rfl⟩, ⟨.inr ⟨rfl, rfl⟩, rfl, rfl, rfl, rfl, _, rfl⟩, ⟨.inl ⟨rfl, rfl⟩, rfl, by decide, _, rfl, rfl⟩⟩
theorem witness_DriverInvariantForEver :
    let s := { ready with
      turns := [.host, .echoSet true, .svcEnter, .svcRun], program := [.trans 0xE9000#20, .trans 0x50000#20] }
    DriverInv s ∧ 4 ≤ s.turns.length ∧ (∀ e p, Turn.reset e p ∉ s.turns) ∧
      (∀ item ∈ s.program, keepsDriverInv (itemAction s.params item) = true) ∧ ∃ t, runFor 4 s = .next t :=
  ⟨.inl ⟨rfl, rfl⟩, by decide, fun e p => by simp, by decide, _, rfl⟩
theorem witness_FreshResetBehaviour :
    nextTurn { State.resetWith Params.fixture true with turns := [.tick] } = .tick ∧
    nextTurn { State.resetWith Params.fixture true with turns := [.svcEnter] } = .svcEnter ∧
    nextTurn { State.resetWith Params.fixture true with turns := [.echoSet false] } = .echoSet false := by decide
theorem witness_ResetDuringRun : nextTurn (turn (.reset true [.sei]) ready) = .reset true [.sei] := by decide
theorem witness_StepRunsDecodedInstruction :
    let s := host (.trans 0xE8000#20) base
    nextTurn s = .host ∧ s.insvc = false ∧ s.program = [.trans 0xE8000#20] ∧ decode 0xE8000#20 = .instr .usInit := by
  decide
/-- The first and last register of the window are accepted; a misplaced, a short and an outlying access are not. -/
theorem witness_MappedAccessesCoverOneRegister :
    mappedTx 64 (.load 64 2) = some 0x00000#20 ∧ mappedTx 64 (.load 78 2) = some 0x70000#20 ∧
    mappedTx 64 (.store 76 [0x0A#8, 0x10#8]) = some 0xE100A#20 ∧
    mappedTx 64 (.load 65 2) = none ∧ mappedTx 64 (.load 64 1) = none ∧ mappedTx 64 (.load 80 2) = none ∧
    (let s := host (.mapped (.load 1 1)) base
     nextTurn s = .host ∧ s.insvc = false ∧ s.program = [.mapped (.load 1 1)] ∧
       mappedTx s.params.dmctBase (.load 1 1) = none) ∧
    (let s := host (.mapped (.load 14 2)) base
     nextTurn s = .host ∧ s.insvc = false ∧ s.program = [.mapped (.load 14 2)] ∧
       mappedTx s.params.dmctBase (.load 14 2) = some 0x70000#20) := by decide
theorem witness_IllegalConfigurationsRefused :
    Params.ofRaw ⟨1, 1024, 1, 10, 0⟩ = .ok ⟨1, .div1024, 1, 10, 0, by decide, by decide, by decide⟩ ∧
    Params.ofRaw ⟨16000000, 2, 34300, 10, 0⟩ = .error .prescaler ∧
    Params.ofRaw ⟨0, 8, 34300, 10, 0⟩ = .error .fCpu ∧ Params.ofRaw ⟨16000000, 8, 0, 10, 0⟩ = .error .soundSpeed ∧
    Params.ofRaw ⟨16000000, 8, 34300, 9, 0⟩ = .error .triggerDelay := ⟨rfl, rfl, rfl, rfl, rfl⟩
/-- A run in which `SvcRun` is scheduled at every point: the service in progress at point 0 ends at once. -/
theorem witness_FairServiceLiftsHold :
    ∃ (sched : Nat → Turn) (σ : Nat → State),
      IsRunUnder sched σ ∧ WeaklyFair sched σ ∧ (σ 0).insvc = true := by
  refine ⟨fun _ => .svcRun, fun n => match n with
    | 0 => { base with insvc := true }
    | _ + 1 => base, ?_, ⟨?_, fun n _ => ⟨n, Nat.le_refl n, rfl⟩⟩, rfl⟩
  · intro n
    cases n <;> rfl
  · intro n h
    exact absurd (h (n + 1) (Nat.le_succ n)) (show ¬ svcEnterEnabled base = true by decide)
theorem witness_MaskedCaptureNeverServiced :
    (turn (.echoSet true) { base with edge := true }).icie = false ∧
    Steps (turn (.echoSet true) { base with edge := true }) (.echoSet true) := ⟨rfl, rfl, _, rfl⟩

/-! Witnesses: measurements -/

/-- An echo of n ticks, its two edges and their services. -/
def echoOf (n : Nat) : List Turn :=
  [.echoSet true, .svcEnter, .svcRun] ++ List.replicate n .tick ++ [.echoSet false, .svcEnter, .svcRun]

/-- The echo of spec/95_test_vectors.md, program 4: longer than 2^16 ticks. -/
theorem witness_MeasurementYieldsEchoWidth :
    let s := { ready with turns := echoOf 65636 ++ [] }
    s.turns = echoOf 65636 ++ [] ∧ s.ec = 0#2 ∧ s.edge = true ∧ s.cb = true ∧ s.icie = true ∧ s.gie = true ∧
      s.insvc = false ∧ s.echo = false ∧ s.cs ≠ 0#3 :=
  ⟨rfl, rfl, rfl, rfl, rfl, rfl, rfl, rfl, show ready.cs ≠ 0#3 by decide⟩
/-- A whole service falls between the two transactions. -/
theorem witness_ReadDistanceReturnsItsOwnValue :
    let between := [Turn.echoSet true, .svcEnter, .tick, .svcRun]
    let s := { ready with
      turns := .host :: between ++ .host :: [], program := assemble .usReadDistance, ready := true, htt := 7000#16 }
    s.turns = .host :: between ++ .host :: [] ∧ s.insvc = false ∧ s.program = assemble .usReadDistance ++ [] ∧
      (∀ x ∈ between, x ≠ .host ∧ ∀ e p, x ≠ .reset e p) ∧ ∃ u, exec .usReadDistance s = .next u := by
  refine ⟨rfl, rfl, rfl, ?_, _, rfl⟩
  intro x hx
  simp only [List.mem_cons, List.not_mem_nil, or_false] at hx
  rcases hx with rfl | rfl | rfl | rfl <;> exact ⟨nofun, nofun⟩
theorem witness_EdgePolarityAlternates : ready.ec = 0#2 ∧ ready.edge = true := by decide

end Sys2Proof.Tests
end

section
/-! PROOF. The check of a configuration (00_scope.md R8, R9): `Params.ofRaw` is the partial inverse of forgetting that a
configuration is legal, so it accepts exactly the legal configurations and keeps their values. -/

namespace Sys2Proof

@[simp] theorem Prescaler.ofNat?_toNat (p : Prescaler) : Prescaler.ofNat? p.toNat = some p := by
  cases p <;> rfl

theorem Prescaler.toNat_of_ofNat?_eq_some {n : Nat} {p : Prescaler} (h : Prescaler.ofNat? n = some p) :
    p.toNat = n := by
  unfold Prescaler.ofNat? at h
  split_ifs at h with h1 h8 h64 h256 h1024 <;> cases h
  exacts [h1.symm, h8.symm, h64.symm, h256.symm, h1024.symm]

theorem Prescaler.exists_toNat_eq_iff {n : Nat} :
    (∃ p : Prescaler, p.toNat = n) ↔ n ∈ [1, 8, 64, 256, 1024] := by
  constructor
  · rintro ⟨p, rfl⟩
    cases p <;> decide
  · intro hn
    simp only [List.mem_cons, List.not_mem_nil, or_false] at hn
    obtain rfl | rfl | rfl | rfl | rfl := hn
    exacts [⟨.div1, rfl⟩, ⟨.div8, rfl⟩, ⟨.div64, rfl⟩, ⟨.div256, rfl⟩, ⟨.div1024, rfl⟩]

/-- A legal configuration as its builder writes it: the same values, without the proofs that they are legal. -/
def Params.toRaw (p : Params) : RawParams :=
  ⟨p.fCpu, p.prescaler.toNat, p.soundSpeed, p.trigDelayUs, p.dmctBase⟩

@[simp] theorem Params.ofRaw_toRaw (p : Params) : Params.ofRaw p.toRaw = .ok p := by
  simp [Params.ofRaw, Params.toRaw, p.fCpu_pos, p.soundSpeed_pos, p.trigDelay_ge]

theorem Params.toRaw_of_ofRaw_eq_ok {r : RawParams} {p : Params} (h : Params.ofRaw r = .ok p) : p.toRaw = r := by
  unfold Params.ofRaw at h
  split at h
  next => cases h
  next q hq =>
    split_ifs at h
    cases h
    simp [Params.toRaw, Prescaler.toNat_of_ofNat?_eq_some hq]

theorem Params.ofRaw_eq_ok_iff {r : RawParams} {p : Params} : Params.ofRaw r = .ok p ↔ p.toRaw = r :=
  ⟨Params.toRaw_of_ofRaw_eq_ok, by rintro rfl; exact p.ofRaw_toRaw⟩

/-- The ranges of R8 are exactly the raw values of the legal configurations. -/
theorem Params.exists_toRaw_eq_iff {r : RawParams} :
    (∃ p : Params, p.toRaw = r) ↔
      r.prescaler ∈ [1, 8, 64, 256, 1024] ∧ 0 < r.fCpu ∧ 0 < r.soundSpeed ∧ 10 ≤ r.trigDelayUs := by
  constructor
  · rintro ⟨p, rfl⟩
    exact ⟨Prescaler.exists_toNat_eq_iff.mp ⟨p.prescaler, rfl⟩, p.fCpu_pos, p.soundSpeed_pos, p.trigDelay_ge⟩
  · rintro ⟨hp, hf, hs, ht⟩
    obtain ⟨q, hq⟩ := Prescaler.exists_toNat_eq_iff.mpr hp
    exact ⟨⟨r.fCpu, q, r.soundSpeed, r.trigDelayUs, r.dmctBase, hf, hs, ht⟩, by simp [Params.toRaw, hq]⟩

/-- Settles O55: an accepted configuration is the raw form of a legal one, whose fields are the written values. -/
theorem illegalConfigurationsRefused : Obligations.IllegalConfigurationsRefused := by
  unfold Obligations.IllegalConfigurationsRefused
  intro r
  refine ⟨by simp only [Params.ofRaw_eq_ok_iff, Params.exists_toRaw_eq_iff], fun p hp => ?_⟩
  obtain rfl := Params.toRaw_of_ofRaw_eq_ok hp
  exact ⟨rfl, rfl, rfl, rfl, rfl⟩

end Sys2Proof
end

section
/-! PROOF. The registers of 10_state.md after one step (R21, R22, R25, R26, R28), and the reset values (R37). Each proof
splits on the action the step carries out, once the turn is used up, and on the instruction where the action is one. -/

namespace Sys2Proof.Machine

open Sys2Proof

/-- US_READ_DISTANCE as one update: READY ends at 0 whether or not a measurement was there to consume, and only DIST
depends on it (41_ultrasonic.md R101). -/
theorem eq_of_exec_usReadDistance {s t : State} (h : exec .usReadDistance s = .next t) :
    t = { triggerPulse s with
      ready := false, dist := if s.ready = true then distanceWord s.params s.htt else s.dist } := by
  cases h
  cases hr : s.ready
  · simp [hr, triggerPulse, emit]
  · simp [consumeMeasurement]

@[simp] theorem reservedCommand_eq (r : ReservedCommand) (s : State) : reservedCommand r s = s := rfl

/-- Settles O33: a capture sets ICF; `SvcEnter`, ICU_INIT, US_INIT and a reset clear it. -/
theorem icfAfterStep : Obligations.IcfAfterStep := by
  unfold Obligations.IcfAfterStep
  intro s t h
  unfold step at h
  generalize nextAction s = a at h ⊢
  cases a with
  | instr i =>
    cases i with
    | usReadDistance => simp [eq_of_exec_usReadDistance h]
    | _ => cases h; simp
  | echoSet v => cases h; simp [echoSet_icf]
  | _ => cases h <;> simp

/-- Settles O34: `SvcRun` sets READY on the second edge; US_READ_DISTANCE and a reset clear it. -/
theorem readyAfterStep : Obligations.ReadyAfterStep := by
  unfold Obligations.ReadyAfterStep
  intro s t h
  unfold step at h
  generalize nextAction s = a at h ⊢
  cases a with
  | instr i =>
    cases i with
    | usReadDistance => simp [eq_of_exec_usReadDistance h]
    | _ => cases h; simp
  | svcRun => cases h; simp [svcRun_ready]
  | _ => cases h <;> simp

/-- Settles O36: a tick counts, `SvcRun` zeroes TCNT on the first edge, and four commands and a reset zero it. -/
theorem tcntAfterStep : Obligations.TcntAfterStep := by
  unfold Obligations.TcntAfterStep
  intro s t h
  unfold step at h
  generalize nextAction s = a at h ⊢
  cases a with
  | instr i =>
    cases i with
    | usReadDistance => simp [eq_of_exec_usReadDistance h]
    | _ => cases h; simp
  | svcRun => cases h; simp [svcRun_tcnt]
  | _ => cases h <;> simp

/-- Settles O37: the capture of an echo edge latches TCNT into ICR; three commands and a reset zero it. -/
theorem icrAfterStep : Obligations.IcrAfterStep := by
  unfold Obligations.IcrAfterStep
  intro s t h
  unfold step at h
  generalize nextAction s = a at h ⊢
  cases a with
  | instr i =>
    cases i with
    | usReadDistance => simp [eq_of_exec_usReadDistance h]
    | _ => cases h; simp
  | echoSet v => cases h; simp [echoSet_icr]
  | _ => cases h <;> simp

/-- Settles O39: US_READ_DISTANCE alone converts a measurement into DIST, and a reset zeroes it. -/
theorem distAfterStep : Obligations.DistAfterStep := by
  unfold Obligations.DistAfterStep
  intro s t h
  unfold step at h
  generalize nextAction s = a at h ⊢
  cases a with
  | instr i =>
    cases i with
    | usReadDistance => simp [eq_of_exec_usReadDistance h, distanceWord, correct]
    | _ => cases h; simp
  | _ => cases h <;> simp

/-- Settles O49: the reset state is written out field by field. -/
theorem resetValues : Obligations.ResetValues := by
  unfold Obligations.ResetValues
  exact ⟨rfl, fun p echo => by simp [State.resetWith]⟩

end Sys2Proof.Machine
end

section
/-! PROOF. The encoding (30_encoding.md): the decoder against the table of R63, the clock-source codes (R68), ignored
writes (R70) and reserved commands (R71). -/

namespace Sys2Proof

open Sys2Proof.Machine

/-! What the decoder answers: an instruction is well formed and encodes to the word (R74), a reserved word is a command. -/

theorem wellFormed_decodeRead (a : RegAddr) (d : Word) : (decodeRead a d).wellFormed = true := by
  unfold decodeRead
  split_ifs
  iterate 6 · rfl
  simp only [Instr.wellFormed, Bool.or_eq_true, decide_eq_true_eq]
  bv_omega

theorem wellFormed_decodeIgnoredWrite {a : RegAddr} (ha : a ≠ 6#3) (d : Word) :
    (decodeIgnoredWrite a d).wellFormed = true := by
  unfold decodeIgnoredWrite
  split_ifs
  · rfl
  · simpa [Instr.wellFormed]
  · simp only [Instr.wellFormed, Bool.or_eq_true, decide_eq_true_eq]
    bv_omega

theorem wellFormed_and_encode_eq_of_decodeCommand {d : Word} {i : Instr} (h : decodeCommand d = .instr i) :
    i.wellFormed = true ∧ encode i = mkTx 1#1 6#3 d := by
  rw [cmdData_fields d] at h ⊢
  generalize cmdOp d = op, d.extractLsb' 4 8 = x, d.extractLsb' 3 1 = e, d.extractLsb' 0 3 = l at h ⊢
  clear d
  rw [decodeCommand_cmdData] at h
  split_ifs at h with h₀ hz h₁ hx h₂ hb h₃ hxl h₄ hz h₅ hz h₈ hz h₉ hz <;> cases h <;> refine ⟨rfl, ?_⟩
  · obtain ⟨rfl, rfl, rfl⟩ := hz; subst op; decide
  · subst op x; revert e l; decide
  · obtain ⟨rfl, rfl, rfl | rfl⟩ := hb <;> subst op <;> decide
  · obtain ⟨rfl, rfl⟩ := hxl; subst op; revert e; decide
  all_goals obtain ⟨rfl, rfl, rfl⟩ := hz; subst op; decide

/-- No bit of a word that is an instruction is lost, case by case along W and A (R74). -/
theorem wellFormed_and_encode_eq_of_decode {t : TxWord} {i : Instr} (h : decode t = .instr i) :
    i.wellFormed = true ∧ encode i = t := by
  rw [← mkTx_fields t] at h ⊢
  generalize txW t = w, txA t = a, txD t = d at h ⊢
  obtain rfl | rfl := w.eq_zero_or_eq_one
  · rw [decode_mkTx_read] at h
    cases h
    exact ⟨wellFormed_decodeRead a d, encode_decodeRead a d⟩
  · by_cases ha : a = 6#3
    · subst ha
      rw [decode_mkTx_command] at h
      exact wellFormed_and_encode_eq_of_decodeCommand h
    · rw [decode_mkTx_write a d ha] at h
      cases h
      exact ⟨wellFormed_decodeIgnoredWrite ha d, encode_decodeIgnoredWrite a d⟩

theorem encode_eq_of_decode {t : TxWord} {i : Instr} (h : decode t = .instr i) : encode i = t :=
  (wellFormed_and_encode_eq_of_decode h).2

theorem decode_eq_reserved_iff {t : TxWord} {r : ReservedCommand} :
    decode t = .reserved r ↔ txW t = 1#1 ∧ txA t = 6#3 ∧ decodeCommand (txD t) = .reserved r := by
  unfold decode
  split_ifs with hw ha
  · simp [hw]
  · simp [ha]
  · simp [(txW t).eq_zero_or_eq_one.resolve_left hw, not_not.mp ha]

/-- R71's list of reserved commands. -/
theorem exists_decodeCommand_eq_reserved_iff (d : Word) :
    (∃ r, decodeCommand d = .reserved r) ↔
      cmdOp d ∈ [0x6#4, 0x7#4, 0xA#4, 0xB#4, 0xC#4, 0xD#4, 0xE#4, 0xF#4] ∨
      (cmdOp d ∈ [0x0#4, 0x4#4, 0x5#4, 0x8#4, 0x9#4] ∧ d.extractLsb' 0 12 ≠ 0#12) ∨
      (cmdOp d = 0x1#4 ∧ d.extractLsb' 4 8 ≠ 0#8) ∨
      (cmdOp d = 0x2#4 ∧ d.extractLsb' 1 11 ≠ 0#11) ∨
      (cmdOp d = 0x3#4 ∧ (d.extractLsb' 4 8 ≠ 0#8 ∨ d.extractLsb' 0 3 ≠ 0#3)) := by
  rw [cmdData_fields d, decodeCommand_cmdData]
  simp only [cmdOp_cmdData, cmdData_mid, cmdData_low, ne_eq, cmdData_operands_zero, cmdData_above_bit0_zero,
    ← not_and_or]
  generalize cmdOp d = op, d.extractLsb' 4 8 = x, d.extractLsb' 3 1 = e, d.extractLsb' 0 3 = l
  split_ifs <;> simp [*]
  -- left over: an opcode of no command is one of the eight reserved ones
  revert op
  decide

/-! At most one row is selected: any two rows fix a common bit differently (R63). -/

/-- Two rows differ in a bit that both masks keep. -/
def OpcodeRow.Disjoint (r r' : OpcodeRow) : Prop := r.pattern &&& r'.mask ≠ r'.pattern &&& r.mask

theorem OpcodeRow.Disjoint.not_selects {r r' : OpcodeRow} (hd : r.Disjoint r') {t : TxWord}
    (h : r.selects t = true) : ¬ r'.selects t = true := by
  intro h'
  simp only [OpcodeRow.selects, decide_eq_true_eq] at h h'
  refine hd ?_
  rw [← h, ← h', BitVec.and_assoc, BitVec.and_assoc, BitVec.and_comm r.mask]

theorem opcodeTable_disjoint : ∀ r ∈ opcodeTable, ∀ r' ∈ opcodeTable, r ≠ r' → r.Disjoint r' := by
  unfold OpcodeRow.Disjoint
  decide

theorem eq_of_selects {r r' : OpcodeRow} (hr : r ∈ opcodeTable) (hr' : r' ∈ opcodeTable) {t : TxWord}
    (h : r.selects t = true) (h' : r'.selects t = true) : r = r' := by
  by_contra hne
  exact (opcodeTable_disjoint r hr r' hr' hne).not_selects h h'

theorem opcodeTable_nodup : opcodeTable.Nodup := by decide

theorem filter_selects_eq_singleton {r : OpcodeRow} (hr : r ∈ opcodeTable) {t : TxWord} (h : r.selects t = true) :
    opcodeTable.filter (fun r => r.selects t) = [r] := by
  refine List.perm_singleton.mp ((List.perm_ext_iff_of_nodup (opcodeTable_nodup.filter _) (List.nodup_singleton r)).mpr
    fun r' => ?_)
  rw [List.mem_filter, List.mem_singleton]
  exact ⟨fun ⟨hr', h'⟩ => eq_of_selects hr' hr h' h, by rintro rfl; exact ⟨hr, h⟩⟩

/-! An instruction's word selects the instruction's row. -/

open Laws.EncodedRow in
theorem row_selects_encode (i : Instr) : Statement i := by
  cases i with
  | rdCtrl d => exact rdCtrl d
  | rdStatus d => exact rdStatus d
  | rdTcnt d => exact rdTcnt d
  | rdIcr d => exact rdIcr d
  | rdHtt d => exact rdHtt d
  | rdDist d => exact rdDist d
  | rdZero a d => exact rdZero a d
  | nop => exact nop
  | icuInit cs e => exact icuInit cs e
  | icuSetCallback b => exact icuSetCallback b
  | icuSetEdge e => exact icuSetEdge e
  | icuClearCounter => exact icuClearCounter
  | icuDeinit => exact icuDeinit
  | usInit => exact usInit
  | usReadDistance => exact usReadDistance
  | wrIgnoredLow a d => exact wrIgnoredLow a d
  | wrIgnoredMid a d => exact wrIgnoredMid a d
  | wrIgnoredSeven d => exact wrIgnoredSeven d

theorem row_mem_opcodeTable (i : Instr) : i.row ∈ opcodeTable := by
  cases i <;> simp [opcodeTable, Instr.row]

theorem filter_selects_eq_row_of_decode {t : TxWord} {i : Instr} (h : decode t = .instr i) :
    opcodeTable.filter (fun r => r.selects t) = [i.row] := by
  obtain ⟨hwf, rfl⟩ := wellFormed_and_encode_eq_of_decode h
  exact filter_selects_eq_singleton (row_mem_opcodeTable i) (row_selects_encode i hwf)

/-! A reserved word selects no row: only the commands' rows match W = 1 and A = 6, and they match no reserved command. -/

/-- The row of a command: W, A, OP and D[11:4] are fixed, and of D[3] and D[2:0] the bits of `me` and `ml` are 0. -/
def commandRow (mnemonic : String) (op : BitVec 4) (me : BitVec 1) (ml : BitVec 3) : OpcodeRow :=
  ⟨mnemonic, mkTx 1#1 6#3 (cmdData op 0#8 0#1 0#3), mkTx 1#1 7#3 (cmdData 15#4 255#8 me ml)⟩

theorem commandRow_selects_iff {n : String} {k op : BitVec 4} {me e : BitVec 1} {ml l : BitVec 3} {x : BitVec 8} :
    (commandRow n k me ml).selects (mkTx 1#1 6#3 (cmdData op x e l)) = true ↔
      op = k ∧ x = 0#8 ∧ e &&& me = 0#1 ∧ l &&& ml = 0#3 := by
  have hop : op &&& 15#4 = op := BitVec.and_allOnes
  have hx : x &&& 255#8 = x := BitVec.and_allOnes
  simp [OpcodeRow.selects, commandRow, mkTx_and, mkTx_inj, cmdData_and, cmdData_inj, hop, hx]

/-- The table's rows with A = 6 and W = 1. -/
def commandRows : List OpcodeRow :=
  [commandRow "NOP" 0 1 7, commandRow "ICU_INIT" 1 0 0, commandRow "ICU_SET_CALLBACK" 2 1 6,
   commandRow "ICU_SET_EDGE" 3 0 7, commandRow "ICU_CLEAR_COUNTER" 4 1 7, commandRow "ICU_DEINIT" 5 1 7,
   commandRow "US_INIT" 8 1 7, commandRow "US_READ_DISTANCE" 9 1 7]

theorem mem_commandRows_of_fields : ∀ r ∈ opcodeTable,
    1#1 &&& txW r.mask = txW r.pattern → 6#3 &&& txA r.mask = txA r.pattern → r ∈ commandRows := by
  decide

theorem mem_commandRows_of_selects {r : OpcodeRow} (hr : r ∈ opcodeTable) {d : Word}
    (h : r.selects (mkTx 1#1 6#3 d) = true) : r ∈ commandRows := by
  rw [OpcodeRow.selects, decide_eq_true_eq, ← mkTx_fields r.mask, mkTx_and] at h
  exact mem_commandRows_of_fields r hr (by rw [← h, txW_mkTx]) (by rw [← h, txA_mkTx])

theorem exists_decodeCommand_eq_instr_of_selects {r : OpcodeRow} (hr : r ∈ commandRows) {d : Word}
    (h : r.selects (mkTx 1#1 6#3 d) = true) : ∃ i, decodeCommand d = .instr i := by
  rw [cmdData_fields d] at h ⊢
  generalize cmdOp d = op, d.extractLsb' 4 8 = x, d.extractLsb' 3 1 = e, d.extractLsb' 0 3 = l at h ⊢
  have he : e &&& 1#1 = e := BitVec.and_allOnes
  have hl : l &&& 7#3 = l := BitVec.and_allOnes
  have hl' : l &&& 6#3 = 0#3 ↔ l = 0#3 ∨ l = 1#3 := by clear * -; revert l; decide
  rw [decodeCommand_cmdData]
  simp only [commandRows, List.mem_cons, List.not_mem_nil, or_false] at hr
  rcases hr with rfl | rfl | rfl | rfl | rfl | rfl | rfl | rfl <;>
    obtain ⟨rfl, rfl, he0, hl0⟩ := commandRow_selects_iff.mp h <;> simp_all

theorem filter_selects_eq_nil_of_reserved {t : TxWord} {r : ReservedCommand} (h : decode t = .reserved r) :
    opcodeTable.filter (fun x => x.selects t) = [] := by
  obtain ⟨hw, ha, hd⟩ := decode_eq_reserved_iff.mp h
  refine List.filter_eq_nil_iff.mpr fun row hrow hsel => ?_
  rw [← mkTx_fields t, hw, ha] at hsel
  obtain ⟨i, hi⟩ := exists_decodeCommand_eq_instr_of_selects (mem_commandRows_of_selects hrow hsel) hsel
  rw [hi] at hd
  cases hd

/-! In a row whose low 16 bits are all `x`, every instruction runs as the one whose word is the row's pattern. -/

theorem exists_decode_pattern_exec_eq {i : Instr} (h : i.row.mask &&& 0x0FFFF#20 = 0#20) :
    ∃ k, decode i.row.pattern = .instr k ∧ ∀ s, exec i s = exec k s := by
  cases i with
  | rdCtrl _ => exact ⟨.rdCtrl 0, by simp only [Instr.row]; decide, fun _ => rfl⟩
  | rdStatus _ => exact ⟨.rdStatus 0, by simp only [Instr.row]; decide, fun _ => rfl⟩
  | rdTcnt _ => exact ⟨.rdTcnt 0, by simp only [Instr.row]; decide, fun _ => rfl⟩
  | rdIcr _ => exact ⟨.rdIcr 0, by simp only [Instr.row]; decide, fun _ => rfl⟩
  | rdHtt _ => exact ⟨.rdHtt 0, by simp only [Instr.row]; decide, fun _ => rfl⟩
  | rdDist _ => exact ⟨.rdDist 0, by simp only [Instr.row]; decide, fun _ => rfl⟩
  | rdZero _ _ => exact ⟨.rdZero 6 0, by simp only [Instr.row]; decide, fun _ => rfl⟩
  | wrIgnoredLow _ _ => exact ⟨.wrIgnoredLow 0 0, by simp only [Instr.row]; decide, fun _ => rfl⟩
  | wrIgnoredMid _ _ => exact ⟨.wrIgnoredMid 4 0, by simp only [Instr.row]; decide, fun _ => rfl⟩
  | wrIgnoredSeven _ => exact ⟨.wrIgnoredSeven 0, by simp only [Instr.row]; decide, fun _ => rfl⟩
  | _ => exact absurd h (by simp only [Instr.row]; decide)

theorem exec_eq_of_row_eq {i j : Instr} (hrow : i.row = j.row) (hmask : i.row.mask &&& 0x0FFFF#20 = 0#20)
    (s : State) : exec i s = exec j s := by
  obtain ⟨k, hk, hik⟩ := exists_decode_pattern_exec_eq hmask
  obtain ⟨k', hk', hjk⟩ := exists_decode_pattern_exec_eq (hrow ▸ hmask)
  rw [← hrow, hk] at hk'
  cases hk'
  rw [hik, hjk]

/-- Settles O4: an instruction's word selects its own row, and no two rows share a word; a reserved word selects none. -/
theorem decodeAgreesWithOpcodeTable : Obligations.DecodeAgreesWithOpcodeTable := by
  unfold Obligations.DecodeAgreesWithOpcodeTable
  refine ⟨rfl, fun t i h => filter_selects_eq_row_of_decode h, fun t r h => filter_selects_eq_nil_of_reserved h,
    fun t ht => ?_, fun r t => decide_eq_true_iff, fun t cs e h => ?_, fun t b h => ?_, fun t e h => ?_,
    fun i j s hrow hmask => exec_eq_of_row_eq hrow hmask s⟩
  · cases hd : decode t with
    | instr i =>
      rw [filter_selects_eq_row_of_decode hd] at ht
      cases ht
    | reserved r =>
      obtain ⟨hw, ha, -⟩ := decode_eq_reserved_iff.mp hd
      exact ⟨⟨r, rfl⟩, hw, ha⟩
  · rw [← encode_eq_of_decode h]; clear h; revert cs e; decide
  · rw [← encode_eq_of_decode h]; clear h; revert b; decide
  · rw [← encode_eq_of_decode h]; clear h; revert e; decide

end Sys2Proof

namespace Sys2Proof.Machine

open Sys2Proof

/-! The host's turn: what its step does, and what the host then reads from the window. -/

theorem nextAction_of_host_trans {s : State} {t : TxWord} {rest : List HostItem} (hturn : nextTurn s = .host)
    (hsvc : s.insvc = false) (hprog : s.program = .trans t :: rest) : nextAction s = txAction t := by
  simp [nextAction, hturn, hostAction, hsvc, hprog, itemAction]

theorem hostAction_cases (s : State) :
    hostAction s = .wait ∨ ∃ item, hostAction s = itemAction s.params item := by
  unfold hostAction
  split_ifs
  · exact .inl rfl
  · split
    · exact .inl rfl
    · exact .inr ⟨_, rfl⟩

/-- On its turn the host waits, issues an instruction or a reserved command, or drives GIE. -/
theorem host_step_cases {s t : State} (hturn : nextTurn s = .host) (h : step s = .next t) :
    t = takeTurn s ∨ (∃ i, nextAction s = .instr i ∧ exec i (advance (takeTurn s)) = .next t) ∨
    t = advance (takeTurn s) ∨ ∃ v, t = setGie v (advance (takeTurn s)) := by
  have ha : nextAction s = hostAction s := by simp [nextAction, hturn]
  unfold step at h
  rcases hostAction_cases s with hw | ⟨item, hi⟩
  · rw [ha, hw] at h; cases h; exact .inl rfl
  · rw [hi] at ha
    rcases itemAction_cases s.params item with ⟨i, hi⟩ | ⟨r, hi⟩ | ⟨v, hi⟩ | hi <;> rw [hi] at ha <;> rw [ha] at h
    · exact .inr (.inl ⟨i, ha, h⟩)
    · cases h; exact .inr (.inr (.inl rfl))
    · cases h; exact .inr (.inr (.inr ⟨v, rfl⟩))
    · cases h

/-- What the host reads from the six registers of the window that hold state (20_memory.md R57). -/
def windowRegs (s : State) : Word × Word × Word × Word × Word × Word :=
  (ctrlWord s, statusWord s, s.tcnt, s.icr, s.htt, s.dist)

@[simp] theorem windowRegs_takeTurn (s : State) : windowRegs (takeTurn s) = windowRegs s := by simp [windowRegs]

@[simp] theorem windowRegs_advance (s : State) : windowRegs (advance s) = windowRegs s := rfl

@[simp] theorem windowRegs_setGie (v : Bool) (s : State) : windowRegs (setGie v s) = windowRegs s := rfl

@[simp] theorem windowRegs_busReturn (v : Word) (s : State) : windowRegs (busReturn v s) = windowRegs s := rfl

/-- An instruction that is no command leaves the window's registers. -/
theorem windowRegs_exec_eq_or_command {i : Instr} {s t : State} (h : exec i s = .next t) :
    windowRegs t = windowRegs s ∨ ∃ op x, encode i = mkCmd op x := by
  rcases exec_cases h with ⟨v, rfl⟩ | rfl | ⟨_, _, rfl, -⟩ | ⟨_, rfl, -⟩ | ⟨_, rfl, -⟩ | ⟨rfl, -⟩ | ⟨rfl, -⟩ |
    ⟨rfl, -⟩ | ⟨rfl, -⟩ | ⟨rfl, -⟩
  · exact .inl (windowRegs_busReturn v s)
  · exact .inl rfl
  all_goals exact .inr ⟨_, _, rfl⟩

theorem exec_decodeIgnoredWrite (a : RegAddr) (d : Word) (s : State) :
    exec (decodeIgnoredWrite a d) s = .next s := by
  unfold decodeIgnoredWrite
  split_ifs <;> rfl

/-- Settles O5: the decoder's case split gives R71's list, and the step for such a word is the host's advance alone. -/
theorem reservedCommandsHaveNoEffect : Obligations.ReservedCommandsHaveNoEffect := by
  unfold Obligations.ReservedCommandsHaveNoEffect
  refine ⟨fun t => ?_, fun s t rest r hturn hsvc hprog ht => ?_⟩
  · simp only [decode_eq_reserved_iff, exists_and_left, exists_decodeCommand_eq_reserved_iff]
  · have ha : nextAction s = .reserved r := by
      rw [nextAction_of_host_trans hturn hsvc hprog, txAction, ht]
    simp [step, ha, perform, advance, hprog]

/-- Settles O6: of what the host can do on its turn, only a command writes a register of the window. -/
theorem writesOutsideCmdChangeNothing : Obligations.WritesOutsideCmdChangeNothing := by
  unfold Obligations.WritesOutsideCmdChangeNothing
  refine ⟨fun t hw ha => ⟨decodeIgnoredWrite (txA t) (txD t), ?_, exec_decodeIgnoredWrite _ _⟩,
    fun _ _ _ => rfl, fun _ _ _ => rfl, fun _ _ => rfl, fun s t hturn h hne => ?_⟩
  · rw [← decode_mkTx_write _ _ ha, ← hw, mkTx_fields]
  · change windowRegs t ≠ windowRegs s at hne
    rcases host_step_cases hturn h with rfl | ⟨i, hi, he⟩ | rfl | ⟨v, rfl⟩
    · simp at hne
    · rcases windowRegs_exec_eq_or_command he with hw | ⟨op, x, hx⟩
      · simp [hw] at hne
      · exact ⟨i, hi, by rw [hx, mkCmd, txW_mkTx], by rw [hx, mkCmd, txA_mkTx]⟩
    · simp at hne
    · simp at hne

/-- Settles O7: the table is evaluated code by code, and the divisor of `code(P)` prescaler by prescaler. -/
theorem clockSourceCodes : Obligations.ClockSourceCodes := by
  unfold Obligations.ClockSourceCodes
  refine ⟨rfl, rfl, rfl, rfl, rfl, rfl, rfl, rfl, rfl, rfl, rfl, rfl, rfl, fun p => ?_⟩
  cases p <;> rfl

end Sys2Proof.Machine
end

section
/-! PROOF. The timer and capture unit (40_icu.md): the words of its reads and commands (R80 to R92), what the reads
return, the registers the commands write, and the steps of ticks and echo edges (R95 to R97). -/

namespace Sys2Proof

/-! Where a row's mask and match, with the word, fix the instruction, they say that the decoder answers it (R63). -/

theorem selects_of_decode {t : TxWord} {i : Instr} (h : decode t = .instr i) : i.row.selects t = true := by
  obtain ⟨hwf, rfl⟩ := wellFormed_and_encode_eq_of_decode h
  exact row_selects_encode i hwf

/-- A word that selects a row of the table is an instruction of that row. -/
theorem exists_decode_of_selects {r : OpcodeRow} (hr : r ∈ opcodeTable) {t : TxWord} (h : r.selects t = true) :
    ∃ j, decode t = .instr j ∧ j.row = r := by
  have hf := filter_selects_eq_singleton hr h
  cases hd : decode t with
  | instr j =>
    rw [filter_selects_eq_row_of_decode hd] at hf
    exact ⟨j, rfl, List.singleton_inj.mp hf⟩
  | reserved c =>
    rw [filter_selects_eq_nil_of_reserved hd] at hf
    cases hf

theorem and_mask_eq_pattern_iff {t : TxWord} {i : Instr} (hi : ∀ j : Instr, j.row = i.row → encode j = t → j = i) :
    t &&& i.row.mask = i.row.pattern ↔ decode t = .instr i := by
  refine ⟨fun h => ?_, fun h => of_decide_eq_true (selects_of_decode h)⟩
  obtain ⟨j, hj, hrow⟩ := exists_decode_of_selects (row_mem_opcodeTable i) (decide_eq_true h)
  rw [hj, hi j hrow (encode_eq_of_decode hj)]

/-- An instruction that the decoder recovers from its word has no other word. -/
theorem decode_eq_instr_iff {t : TxWord} {i : Instr} (hi : decode (encode i) = .instr i) :
    decode t = .instr i ↔ t = encode i :=
  ⟨fun h => (encode_eq_of_decode h).symm, by rintro rfl; exact hi⟩

/-- The read rows that fix W and A: RD_CTRL to RD_DIST are `decodeRead` at A = 0 to 5. -/
theorem and_maskF0000_eq_iff_decodeRead (t : TxWord) (a : RegAddr) :
    t &&& 0xF0000#20 = mkTx 0#1 a 0#16 ↔ decode t = .instr (decodeRead a (txD t)) := by
  have hfields : t &&& 0xF0000#20 = mkTx 0#1 a 0#16 ↔ txW t = 0#1 ∧ txA t = a := by
    conv_lhs => rw [← mkTx_fields t, maskF0000_fields, mkTx_and, mkTx_inj]
    simp [show txW t &&& 1#1 = txW t from BitVec.and_allOnes, show txA t &&& 7#3 = txA t from BitVec.and_allOnes]
  rw [hfields]
  constructor
  · rintro ⟨hw, rfl⟩
    rw [← decode_mkTx_read, ← hw, mkTx_fields]
  · intro h
    have ht := encode_eq_of_decode h
    rw [encode_decodeRead] at ht
    exact ⟨by rw [← ht, txW_mkTx], by rw [← ht, txA_mkTx]⟩

theorem and_maskE0000_eq_iff_rdZero (t : TxWord) :
    t &&& 0xE0000#20 = 0x60000#20 ↔ decode t = .instr (.rdZero (txA t) (txD t)) := by
  refine and_mask_eq_pattern_iff (i := .rdZero (txA t) (txD t)) ?_
  rintro j hrow rfl
  cases j <;> simp [Instr.row] at hrow
  simp [encode]

theorem and_maskFFFF0_eq_iff_icuInit (t : TxWord) :
    t &&& 0xFFFF0#20 = 0xE1000#20 ↔ decode t = .instr (.icuInit (t.extractLsb' 0 3) (t.getLsbD 3)) := by
  refine and_mask_eq_pattern_iff (i := .icuInit (t.extractLsb' 0 3) (t.getLsbD 3)) ?_
  rintro j hrow rfl
  cases j <;> simp [Instr.row] at hrow
  next cs e => revert cs e; decide

theorem and_maskFFFFE_eq_iff_icuSetCallback (t : TxWord) :
    t &&& 0xFFFFE#20 = 0xE2000#20 ↔ decode t = .instr (.icuSetCallback (t.getLsbD 0)) := by
  refine and_mask_eq_pattern_iff (i := .icuSetCallback (t.getLsbD 0)) ?_
  rintro j hrow rfl
  cases j <;> simp [Instr.row] at hrow
  next b => revert b; decide

theorem and_maskFFFF7_eq_iff_icuSetEdge (t : TxWord) :
    t &&& 0xFFFF7#20 = 0xE3000#20 ↔ decode t = .instr (.icuSetEdge (t.getLsbD 3)) := by
  refine and_mask_eq_pattern_iff (i := .icuSetEdge (t.getLsbD 3)) ?_
  rintro j hrow rfl
  cases j <;> simp [Instr.row] at hrow
  next e => revert e; decide

end Sys2Proof

namespace Sys2Proof.Machine

open Sys2Proof

/-! The images of CTRL and STATUS, field by field (R80, R81). -/

theorem ctrlWord_fields (s : State) :
    (ctrlWord s).extractLsb' 0 3 = s.cs ∧ (ctrlWord s).getLsbD 3 = s.edge ∧ (ctrlWord s).getLsbD 4 = s.icie ∧
    (ctrlWord s).getLsbD 5 = s.cb ∧ (ctrlWord s).getLsbD 6 = s.trigOe ∧ (ctrlWord s).extractLsb' 7 9 = 0#9 := by
  unfold ctrlWord
  generalize s.trigOe = o, s.cb = b, s.icie = m, s.edge = e, s.cs = c
  revert o b m e c
  decide

theorem statusWord_fields (s : State) :
    (statusWord s).getLsbD 0 = s.icf ∧ (statusWord s).getLsbD 1 = s.ready ∧ (statusWord s).extractLsb' 2 2 = s.ec ∧
    (statusWord s).getLsbD 4 = irq s ∧ (statusWord s).extractLsb' 5 11 = 0#11 := by
  unfold statusWord
  generalize irq s = q, s.ec = c, s.ready = r, s.icf = f
  revert q c r f
  decide

/-- STATUS[3] is the upper bit of EC, 0 in a legal state (10_state.md R23). -/
theorem statusWord_bit3_of_ecLegal {s : State} (h : EcLegal s) : (statusWord s).getLsbD 3 = false := by
  unfold statusWord
  generalize irq s = q, s.ready = r, s.icf = f
  rcases h with h | h <;> rw [h] <;> clear h <;> revert q r f <;> decide

/-! Ticks, echo edges and taking the interrupt, as steps. -/

theorem insvc_eq_false_of_nextAction_eq_instr {s : State} {i : Instr} (h : nextAction s = .instr i) :
    s.insvc = false := by
  rcases nextAction_cases s with ha | ⟨-, hsvc, -⟩ | ⟨-, -, ha⟩ | ⟨v, -, ha⟩ | ⟨-, -, ha⟩ | ⟨-, -, ha⟩ | ⟨e, p, -, ha⟩
  · simp [ha] at h
  · exact hsvc
  all_goals simp [ha] at h

theorem step_of_tick {s : State} (h : nextTurn s = .tick) (hcs : s.cs ≠ 0#3) :
    step s = .next { takeTurn s with tcnt := s.tcnt + 1#16 } := by
  simp [step, nextAction, h, tickEnabled_eq_true.mpr hcs, perform, tick]

theorem step_of_tick_stopped {s : State} (h : nextTurn s = .tick) (hcs : s.cs = 0#3) :
    step s = .next (takeTurn s) := by
  have hoff : ¬ tickEnabled s.cs = true := fun ht => tickEnabled_eq_true.mp ht hcs
  simp [step, nextAction, h, hoff, perform]

theorem step_of_echoSet {s : State} {v : Bool} (h : nextTurn s = .echoSet v) :
    step s = .next (echoSet v (takeTurn s)) := by
  simp [step, nextAction, h, perform]

theorem step_of_svcEnter {s : State} (h : nextTurn s = .svcEnter) (hen : svcEnterEnabled s = true) :
    step s = .next { takeTurn s with icf := false, insvc := true } := by
  simp [step, nextAction, h, hen, perform, svcEnter]

theorem tcnt_iterate_tick (k : Nat) (s : State) : (tick^[k] s).tcnt = s.tcnt + BitVec.ofNat 16 k := by
  induction k with
  | zero => simp
  | succ k ih => rw [Function.iterate_succ_apply', tick_tcnt, ih, BitVec.add_assoc, ← BitVec.ofNat_add]

theorem toNat_tcnt_iterate_tick (k : Nat) (s : State) : (tick^[k] s).tcnt.toNat = (s.tcnt.toNat + k) % 2 ^ 16 := by
  rw [tcnt_iterate_tick, BitVec.toNat_add, BitVec.toNat_ofNat, Nat.add_mod_mod]

/-- R96's two matching transitions: a new level, which is the polarity of EDGE. -/
theorem matching_transition_iff {old new edge : Bool} :
    ((old = false ∧ new = true ∧ edge = true) ∨ (old = true ∧ new = false ∧ edge = false)) ↔
      old ≠ new ∧ edge = new := by
  revert old new edge
  decide

theorem echoSet_of_not_edge {s : State} {v : Bool} (h : ¬ (s.echo ≠ v ∧ s.edge = v)) :
    echoSet v s = { s with echo := v } := by
  rcases echoSet_cases v s with ⟨hne, he, -⟩ | ⟨-, heq⟩
  · exact absurd ⟨hne, he⟩ h
  · exact heq

theorem echoSet_of_edge {s : State} {v : Bool} (hne : s.echo ≠ v) (he : s.edge = v) :
    echoSet v s = { s with echo := v, icr := s.tcnt, icf := true } := by
  rcases echoSet_cases v s with ⟨-, -, heq⟩ | ⟨h, -⟩
  · exact heq
  · exact absurd ⟨hne, he⟩ h

/-- Without a callback a service body only returns. -/
theorem svcRun_of_no_callback {s : State} (h : s.cb = false) : svcRun s = { s with insvc := false } := by
  simp [svcRun, runCallback, h]

/-- Settles O8: the image of CTRL field by field; US_INIT's example is CTRL at the fields it writes. -/
theorem rdCtrlReturnsConfiguration : Obligations.RdCtrlReturnsConfiguration := by
  unfold Obligations.RdCtrlReturnsConfiguration
  refine ⟨fun t => and_maskF0000_eq_iff_decodeRead t 0#3, fun d s => ⟨rfl, ctrlWord_fields s⟩, fun s t hp h => ?_⟩
  cases h
  simp [ctrlWord, hp, csCode]

/-- Settles O9: the image of STATUS field by field; the host is held while INSVC = 1. -/
theorem rdStatusReturnsFlags : Obligations.RdStatusReturnsFlags := by
  unfold Obligations.RdStatusReturnsFlags
  refine ⟨fun t => and_maskF0000_eq_iff_decodeRead t 1#3, fun d s => ?_,
    fun d s h => insvc_eq_false_of_nextAction_eq_instr h, fun s hicf hready hec => ?_⟩
  · obtain ⟨hicf, hready, hec, hirq, hzero⟩ := statusWord_fields s
    exact ⟨rfl, hicf, hready, hec, hirq, hzero, statusWord_bit3_of_ecLegal⟩
  · simp [statusWord, irq, hicf, hready, hec]

/-- Settles O10: each read returns its register; `k` ticks add `k` to TCNT, by induction on `k`. -/
theorem dataReadsReturnRegisters : Obligations.DataReadsReturnRegisters := by
  unfold Obligations.DataReadsReturnRegisters
  refine ⟨fun t => ⟨and_maskF0000_eq_iff_decodeRead t 2#3, and_maskF0000_eq_iff_decodeRead t 3#3,
      and_maskF0000_eq_iff_decodeRead t 4#3, and_maskF0000_eq_iff_decodeRead t 5#3, and_maskE0000_eq_iff_rdZero t⟩,
    fun a d s => ⟨rfl, rfl, rfl, rfl, rfl⟩, toNat_tcnt_iterate_tick, fun cs e s t h => ?_, fun s t h => ?_,
    fun d s => rfl, fun d s hcb hec => ?_, fun p echo => ⟨rfl, rfl⟩⟩
  · cases h
    exact ⟨by rw [tcnt_iterate_tick, icuConfigure_tcnt]; rfl, rfl⟩
  · rcases h with h | h <;> cases h <;> rfl
  · have hhtt : (svcRun s).htt = s.icr := by simp [svcRun_htt, hcb, hec]
    change Host.Outcome.next (busReturn (svcRun s).htt (svcRun s)) = _
    rw [hhtt, busReturn, svcRun_reads]

/-- Settles O12: NOP has one word; its opcode with a nonzero operand bit is on R71's list of reserved commands. -/
theorem nopChangesNothing : Obligations.NopChangesNothing := by
  unfold Obligations.NopChangesNothing
  refine ⟨fun t => decode_eq_instr_iff (i := .nop) (by decide), fun s => rfl, fun d hd => ?_⟩
  have hop : cmdOp (0x0#4 ++ d) = 0x0#4 := BitVec.extractLsb'_append_eq_left
  have hlow : (0x0#4 ++ d).extractLsb' 0 12 ≠ 0#12 := by rwa [BitVec.extractLsb'_append_eq_right]
  rw [decode_mkTx_command]
  exact (exists_decodeCommand_eq_reserved_iff _).mpr (.inr (.inl ⟨by simp [hop], hlow⟩))

/-- Settles O13: the row fixes all but the operands; the example is CTRL at the fields ICU_INIT writes after reset. -/
theorem icuInitConfiguresTimer : Obligations.IcuInitConfiguresTimer := by
  unfold Obligations.IcuInitConfiguresTimer
  refine ⟨and_maskFFFF0_eq_iff_icuInit, fun cs e s => rfl, fun p echo t h => ?_⟩
  cases h
  simp [ctrlWord, State.resetWith]

/-- Settles O14: with CB = 0 a service is entered as ever, and its body is the return alone. -/
theorem icuSetCallbackInstallsHandle : Obligations.IcuSetCallbackInstallsHandle := by
  unfold Obligations.IcuSetCallbackInstallsHandle
  refine ⟨and_maskFFFFE_eq_iff_icuSetCallback, fun b s => rfl, fun s t h => ?_,
    fun s t _ hturn hicf hicie hgie hsvc =>
      step_of_svcEnter hturn (svcEnterEnabled_eq_true.mpr ⟨hicf, hicie, hgie, hsvc⟩)⟩
  cases h
  exact svcRun_of_no_callback rfl

/-- Settles O15: an echo step to the level already on the pin is no transition, so it captures with neither polarity. -/
theorem icuSetEdgeSwitchesPolarity : Obligations.IcuSetEdgeSwitchesPolarity := by
  unfold Obligations.IcuSetEdgeSwitchesPolarity
  refine ⟨and_maskFFFF7_eq_iff_icuSetEdge, fun e s => rfl, fun e s t h he => ?_, fun e s t h => ?_⟩
  · cases h
    rw [← he]
  · cases h
    exact echoSet_of_not_edge fun ⟨hne, _⟩ => hne rfl

/-- Settles O16: from a zeroed count, `k` ticks count `k`, and a capture latches the count. -/
theorem icuClearCounterZeroesCount : Obligations.IcuClearCounterZeroesCount := by
  unfold Obligations.IcuClearCounterZeroesCount
  refine ⟨fun t => decode_eq_instr_iff (i := .icuClearCounter) (by decide), fun s => rfl, fun k s t h => ?_,
    fun s hcs hturn => step_of_tick_stopped hturn hcs⟩
  cases h
  simp [toNat_tcnt_iterate_tick]

/-- Settles O17: ICIE = 0 disables `SvcEnter`; the count latched by a falling edge is the zeroed one. -/
theorem icuDeinitStopsTimer : Obligations.IcuDeinitStopsTimer := by
  unfold Obligations.IcuDeinitStopsTimer
  refine ⟨fun t => decode_eq_instr_iff (i := .icuDeinit) (by decide), fun s => rfl, fun s t h => ?_,
    fun s t h hecho => ?_, fun s t u ht hu => ?_⟩
  · cases h
    simp [svcEnterEnabled]
  · cases h
    exact echoSet_of_edge (by simp [hecho]) rfl
  · cases ht
    cases hu
    simp [ctrlWord]

/-- Settles O25: the tick's turn by its enabling condition, and its count as a natural modulo 2^16. -/
theorem tickCountsWhenClocked : Obligations.TickCountsWhenClocked := by
  unfold Obligations.TickCountsWhenClocked
  refine ⟨fun s hturn hcs => ⟨_, step_of_tick hturn hcs, BitVec.toNat_add _ _⟩,
    fun s hturn hcs => step_of_tick_stopped hturn hcs, fun s hturn hcs hmax => ?_⟩
  rw [step_of_tick hturn hcs, hmax]
  rfl

/-- Settles O26: the step is the echo step itself, whose two cases are those of a matching transition. -/
theorem echoEdgeCaptures : Obligations.EchoEdgeCaptures := by
  unfold Obligations.EchoEdgeCaptures
  intro s v hturn
  rw [matching_transition_iff, step_of_echoSet hturn]
  refine ⟨fun ⟨hne, he⟩ => ?_, fun hno => ?_⟩
  · rw [echoSet_of_edge (by simpa using hne) (by simpa using he)]
    simp
  · rw [echoSet_of_not_edge (by simpa using hno)]

end Sys2Proof.Machine
end

section
/-! PROOF. The ultrasonic driver (41_ultrasonic.md): what its two commands write (R100 to R102), and the converter: the
exact ceiling (R103), the bias table (R104) and the stored width (R105). -/

namespace Sys2Proof.Machine

open Sys2Proof

/-! The converter. -/

/-- The division that rounds up is Mathlib's `⌈/⌉`: the raw value is the least `c` whose product with the divisor is not below the
dividend (R103). -/
theorem rawCm_le_iff {p : Params} {h c : Nat} :
    rawCm p h ≤ c ↔ p.soundSpeed * h * p.prescaler.toNat ≤ 2 * p.fCpu * c :=
  ceilDiv_le_iff_le_mul (Nat.mul_pos two_pos p.fCpu_pos)

/-- The source's real formula as one quotient. -/
theorem rawCm_formula_eq_div (p : Params) (h : Nat) :
    ((p.soundSpeed : ℚ) / 2) / (p.fCpu : ℚ) * (h : ℚ) * (p.prescaler.toNat : ℚ) =
      ((p.soundSpeed * h * p.prescaler.toNat : ℕ) : ℚ) / ((2 * p.fCpu : ℕ) : ℚ) := by
  push_cast
  ring

theorem rawCm_eq_ceil (p : Params) (h : Nat) :
    rawCm p h = ⌈((p.soundSpeed * h * p.prescaler.toNat : ℕ) : ℚ) / ((2 * p.fCpu : ℕ) : ℚ)⌉₊ := by
  have hpos : (0 : ℚ) < ((2 * p.fCpu : ℕ) : ℚ) := Nat.cast_pos.mpr (Nat.mul_pos two_pos p.fCpu_pos)
  refine eq_of_forall_ge_iff fun c => ?_
  rw [rawCm_le_iff, Nat.ceil_le, div_le_iff₀' hpos, ← Nat.cast_mul, Nat.cast_le]

@[simp] theorem rawCm_zero (p : Params) : rawCm p 0 = 0 :=
  Nat.le_zero.mp (rawCm_le_iff.mpr (by simp))

theorem rawCm_fixture (h : Nat) : rawCm Params.fixture h = (343 * h + 39999) / 40000 := by
  simp only [rawCm, Params.fixture, Prescaler.toNat]
  omega

theorem bias_le_five (r : Nat) : bias r ≤ 5 := by
  unfold bias
  split_ifs <;> decide

theorem toNat_distanceWord (p : Params) (htt : Word) :
    (distanceWord p htt).toNat = correct (rawCm p htt.toNat) % 2 ^ 16 :=
  BitVec.toNat_ofNat _ _

@[simp] theorem distanceWord_zero (p : Params) : distanceWord p 0#16 = 0#16 := by
  simp [distanceWord, correct, bias]

/-- The longest pulse gives 562 raw centimetres at the fixture, and the table adds at most 5 (R105). -/
theorem correct_rawCm_fixture_le (htt : Word) : correct (rawCm Params.fixture htt.toNat) ≤ 567 := by
  have hraw : rawCm Params.fixture htt.toNat ≤ 562 := by
    rw [rawCm_fixture]
    have hlt := htt.isLt
    omega
  exact Nat.add_le_add hraw (bias_le_five _)

/-! US_READ_DISTANCE without and with a measurement. -/

theorem exec_usReadDistance_of_not_ready {s : State} (hr : s.ready = false) :
    exec .usReadDistance s = .next (triggerPulse s) := by
  simp [exec, execUsReadDistance, hr]

theorem exec_usReadDistance_of_ready {s : State} (hr : s.ready = true) :
    exec .usReadDistance s = .next (consumeMeasurement (triggerPulse s)) := by
  simp [exec, execUsReadDistance, hr]

theorem dist_of_exec_usReadDistance {s t : State} (hr : s.ready = true) (h : exec .usReadDistance s = .next t) :
    t.dist = distanceWord s.params s.htt := by
  simp [eq_of_exec_usReadDistance h, hr]

/-- Settles O19: the pulse is emitted in both cases, and the measurement is consumed exactly where READY = 1. -/
theorem usReadDistanceTriggersAndConsumes : Obligations.UsReadDistanceTriggersAndConsumes := by
  unfold Obligations.UsReadDistanceTriggersAndConsumes
  refine ⟨fun t => decode_eq_instr_iff (i := .usReadDistance) (by decide),
    fun s hr => exec_usReadDistance_of_not_ready hr, fun s hr => exec_usReadDistance_of_ready hr,
    fun s => ⟨s.params.trigDelay_ge, rfl⟩, fun s t hr hhtt h => ?_, fun s t hp hr hhtt hoe h => ⟨?_, ?_, ?_⟩⟩
  · rw [dist_of_exec_usReadDistance hr h, hhtt, distanceWord_zero]
  · rw [dist_of_exec_usReadDistance hr h, hp, hhtt]
    decide
  · rw [eq_of_exec_usReadDistance h]
  · rw [eq_of_exec_usReadDistance h, triggerPulse_history, hp, hoe]
    rfl

/-- Settles O20: both sides are the least natural whose product with 2 · F_CPU is not below S · h · P. -/
theorem rawCmIsExactCeiling : Obligations.RawCmIsExactCeiling := by
  unfold Obligations.RawCmIsExactCeiling
  refine ⟨fun p h => ?_, rawCm_fixture⟩
  rw [rawCm_formula_eq_div, rawCm_eq_ceil, Int.natCast_ceil_eq_ceil (by positivity)]

/-- Settles O22: the store is the residue modulo 2^16, which at the fixture is the value itself, at most 567. -/
theorem storedDistanceWraps : Obligations.StoredDistanceWraps := by
  unfold Obligations.StoredDistanceWraps
  refine ⟨fun s t hr h => ?_, fun h => ⟨?_, correct_rawCm_fixture_le h⟩, by decide, by decide, by decide⟩
  · rw [dist_of_exec_usReadDistance hr h, toNat_distanceWord, correct]
  · rw [toNat_distanceWord]
    exact Nat.mod_eq_of_lt ((correct_rawCm_fixture_le h).trans_lt (by decide))

/-- Settles O18: US_INIT has one word and is one update; the example is CTRL and STATUS at the fields it writes. -/
theorem usInitStartsDriver : Obligations.UsInitStartsDriver := by
  unfold Obligations.UsInitStartsDriver
  refine ⟨fun t => decode_eq_instr_iff (i := .usInit) (by decide), fun s => rfl, fun p echo t hp h => ?_⟩
  cases h
  simp [ctrlWord, statusWord, irq, State.resetWith, hp, csCode]

/-- Settles O21: the table's branches in order, each under the bounds of its interval. -/
theorem biasTableIntervals : Obligations.BiasTableIntervals := by
  unfold Obligations.BiasTableIntervals
  refine ⟨fun r => ⟨?_, ?_, ?_, ?_, ?_, ?_, rfl⟩, by decide⟩
  all_goals
    intro h
    unfold bias
    split_ifs <;> omega

end Sys2Proof.Machine
end

section
/-! PROOF. The interrupt (60_exceptions.md): entry (R112), body and return (R113), the held host (R114) and GIE (R111). -/

namespace Sys2Proof.Machine

open Sys2Proof

/-! The turn of an agent that is not enabled, of `SvcRun` and of a host that drives GIE, as steps. -/

theorem step_of_wait {s : State} (h : nextAction s = .wait) : step s = .next (takeTurn s) := by
  rw [step, h]
  rfl

theorem step_of_svcEnter_disabled {s : State} (h : nextTurn s = .svcEnter) (hdis : ¬ svcEnterEnabled s = true) :
    step s = .next (takeTurn s) :=
  step_of_wait (by simp [nextAction, h, hdis])

theorem step_of_svcRun {s : State} (h : nextTurn s = .svcRun) (hsvc : s.insvc = true) :
    step s = .next (svcRun (takeTurn s)) := by
  simp [step, nextAction, h, hsvc, perform]

theorem step_of_svcRun_disabled {s : State} (h : nextTurn s = .svcRun) (hsvc : s.insvc = false) :
    step s = .next (takeTurn s) :=
  step_of_wait (by simp [nextAction, h, hsvc])

theorem step_of_host_held {s : State} (h : nextTurn s = .host) (hsvc : s.insvc = true) :
    step s = .next (takeTurn s) :=
  step_of_wait (by simp [nextAction, h, hostAction, hsvc])

theorem step_of_host_driveGie {s : State} {item : HostItem} {rest : List HostItem} {v : Bool}
    (h : nextTurn s = .host) (hsvc : s.insvc = false) (hprog : s.program = item :: rest)
    (hitem : itemAction s.params item = .driveGie v) :
    step s = .next { takeTurn s with gie := v, program := rest, index := s.index + 1 } := by
  simp [step, nextAction, h, hostAction, hsvc, hprog, hitem, perform, setGie, advance]

/-! `SvcRun` with the measurement state machine installed, by the old value of EC (41_ultrasonic.md R106). -/

theorem svcRun_of_firstEdge {s : State} (hcb : s.cb = true) (hec : s.ec = 0#2) :
    svcRun s = { s with ec := 1#2, tcnt := 0#16, edge := false, insvc := false } := by
  simp [svcRun, runCallback, edgeProcess, firstEdge, hcb, hec]

theorem svcRun_of_secondEdge {s : State} (hcb : s.cb = true) (hec : s.ec = 1#2) :
    svcRun s = { s with htt := s.icr, edge := true, ready := true, ec := 0#2, insvc := false } := by
  simp [svcRun, runCallback, edgeProcess, secondEdge, hcb, hec]

theorem svcRun_of_not_ecLegal {s : State} (hec : ¬ EcLegal s) : svcRun s = { s with insvc := false } := by
  rcases svcRun_cases s with ⟨-, h, -⟩ | ⟨-, h, -⟩ | ⟨-, h⟩
  · exact absurd (.inl h) hec
  · exact absurd (.inr h) hec
  · exact h

/-- Settles O29: the enabling condition decides between the service entry and a turn used up. -/
theorem svcEnterTakesInterrupt : Obligations.SvcEnterTakesInterrupt := by
  unfold Obligations.SvcEnterTakesInterrupt
  intro s hturn
  rw [← svcEnterEnabled_eq_true]
  exact ⟨step_of_svcEnter hturn, step_of_svcEnter_disabled hturn⟩

/-- Settles O30: where INSVC = 1 the step is `svcRun` itself, with one equation for each CB and old EC. -/
theorem svcRunAdvancesMeasurement : Obligations.SvcRunAdvancesMeasurement := by
  unfold Obligations.SvcRunAdvancesMeasurement
  intro s hturn
  refine ⟨step_of_svcRun_disabled hturn, fun hsvc hcb => ?_, fun hsvc hcb hec => ?_, fun hsvc hcb hec => ?_,
    fun hsvc _ hec => ?_⟩ <;> rw [step_of_svcRun hturn hsvc]
  · rw [svcRun_of_no_callback ((takeTurn_cb s).trans hcb)]
  · rw [svcRun_of_firstEdge ((takeTurn_cb s).trans hcb) ((takeTurn_ec s).trans hec)]
  · rw [svcRun_of_secondEdge ((takeTurn_cb s).trans hcb) ((takeTurn_ec s).trans hec), ← takeTurn_icr s]
  · have hillegal : ¬ EcLegal (takeTurn s) := by
      rcases hec with h | h <;> simp [EcLegal, h]
    rw [svcRun_of_not_ecLegal hillegal]

/-- Settles O31: INSVC stands in the enabling condition of the host and of `SvcRun`, and in no other agent's here. -/
theorem hostHeldDuringService : Obligations.HostHeldDuringService := by
  unfold Obligations.HostHeldDuringService
  intro s hsvc
  refine ⟨fun hturn => step_of_host_held hturn hsvc, fun hturn hcs => ?_, fun v hturn => ?_,
    fun hturn => ⟨_, step_of_svcRun hturn hsvc, svcRun_insvc _⟩⟩
  · simp [nextAction, hturn, tickEnabled_eq_true.mpr hcs]
  · simp [nextAction, hturn]

/-- Settles O32: `sei` and `cli` are one host step that drives GIE, and neither case of the turn of `SvcEnter` writes it. -/
theorem hostDrivesGie : Obligations.HostDrivesGie := by
  unfold Obligations.HostDrivesGie
  refine ⟨fun s rest hturn hsvc hprog => step_of_host_driveGie hturn hsvc hprog rfl,
    fun s rest hturn hsvc hprog => step_of_host_driveGie hturn hsvc hprog rfl,
    fun s hsvc hturn => step_of_host_held hturn hsvc, rfl, fun s t hturn h => ?_⟩
  by_cases hen : svcEnterEnabled s = true
  · rw [step_of_svcEnter hturn hen] at h
    cases h
    exact takeTurn_gie s
  · rw [step_of_svcEnter_disabled hturn hen] at h
    cases h
    exact takeTurn_gie s

end Sys2Proof.Machine
end

section
/-! PROOF. Decoding and encoding are inverse to each other (30_encoding.md R60 to R74). -/

namespace Sys2Proof

open Sys2Proof.Machine

theorem decode_encode_rdZero {a : RegAddr} (d : Word) (ha : (Instr.rdZero a d).wellFormed = true) :
    decode (encode (.rdZero a d)) = .instr (.rdZero a d) := by
  refine (decode_mkTx_read a d).trans ?_
  simp only [Instr.wellFormed, Bool.or_eq_true, decide_eq_true_eq] at ha
  obtain rfl | rfl := ha <;> rfl

theorem decode_encode_wrIgnoredLow {a : RegAddr} (d : Word) (ha : (Instr.wrIgnoredLow a d).wellFormed = true) :
    decode (encode (.wrIgnoredLow a d)) = .instr (.wrIgnoredLow a d) := by
  simp only [Instr.wellFormed, Bool.or_eq_true, decide_eq_true_eq] at ha
  obtain ((rfl | rfl) | rfl) | rfl := ha <;> exact decode_mkTx_write _ d (by decide)

theorem decode_encode_wrIgnoredMid {a : RegAddr} (d : Word) (ha : (Instr.wrIgnoredMid a d).wellFormed = true) :
    decode (encode (.wrIgnoredMid a d)) = .instr (.wrIgnoredMid a d) := by
  simp only [Instr.wellFormed, Bool.or_eq_true, decide_eq_true_eq] at ha
  obtain rfl | rfl := ha <;> exact decode_mkTx_write _ d (by decide)

/-- Settles O2: a read or an ignored write by its address, whose range is the row's; a command's word has only its few
operand bits free. -/
theorem decodeInvertsEncode : Obligations.DecodeInvertsEncode := by
  unfold Obligations.DecodeInvertsEncode
  intro i hwf
  cases i with
  | rdCtrl d => exact decode_mkTx_read 0#3 d
  | rdStatus d => exact decode_mkTx_read 1#3 d
  | rdTcnt d => exact decode_mkTx_read 2#3 d
  | rdIcr d => exact decode_mkTx_read 3#3 d
  | rdHtt d => exact decode_mkTx_read 4#3 d
  | rdDist d => exact decode_mkTx_read 5#3 d
  | rdZero a d => exact decode_encode_rdZero d hwf
  | icuInit cs e => clear hwf; revert cs e; decide
  | icuSetCallback b => cases b <;> decide
  | icuSetEdge e => cases e <;> decide
  | wrIgnoredLow a d => exact decode_encode_wrIgnoredLow d hwf
  | wrIgnoredMid a d => exact decode_encode_wrIgnoredMid d hwf
  | wrIgnoredSeven d => exact decode_mkTx_write 7#3 d (by decide)
  | _ => decide

/-- Settles O3, the other direction, by the decoder's case split along W and A. -/
theorem encodeInvertsDecode : Obligations.EncodeInvertsDecode :=
  fun _ _ => wellFormed_and_encode_eq_of_decode

/-- Settles O1: the decoder evaluated at each of the written words. -/
theorem specWordsDecode : Obligations.SpecWordsDecode := by
  unfold Obligations.SpecWordsDecode
  decide

end Sys2Proof
end

section
/-! PROOF. What an action leaves, as one equation for each action and each instruction; from these, the registers and the
host's data after one step (10_state.md). -/

namespace Sys2Proof.Machine

open Sys2Proof

/-- The state that an action leaves: `s` itself for the one action that is refused. -/
def after (a : Action) (s : State) : State :=
  match perform a s with
  | .next t => t
  | .fault _ => s
  | .refused _ => s

theorem eq_after_of_step {s t : State} (h : step s = .next t) : t = after (nextAction s) (takeTurn s) := by
  rw [step] at h
  rw [after, h]

section
variable (s : State)

@[simp] theorem after_wait : after .wait s = s := rfl
@[simp] theorem after_reserved (r : ReservedCommand) : after (.reserved r) s = advance s := rfl
@[simp] theorem after_driveGie (v : Bool) : after (.driveGie v) s = setGie v (advance s) := rfl
@[simp] theorem after_partialAccess : after .partialAccess s = s := rfl
@[simp] theorem after_tick : after .tick s = tick s := rfl
@[simp] theorem after_echoSet (v : Bool) : after (.echoSet v) s = echoSet v s := rfl
@[simp] theorem after_svcEnter : after .svcEnter s = svcEnter s := rfl
@[simp] theorem after_svcRun : after .svcRun s = svcRun s := rfl
@[simp] theorem after_reset (e : Bool) (p : List HostItem) : after (.reset e p) s = resetStep e p s := rfl

/-! The reads: what each returns is a register of the state before the step. -/

@[simp] theorem after_rdCtrl (d : Word) : after (.instr (.rdCtrl d)) s = busReturn (ctrlWord s) (advance s) := rfl
@[simp] theorem after_rdStatus (d : Word) : after (.instr (.rdStatus d)) s = busReturn (statusWord s) (advance s) := rfl
@[simp] theorem after_rdTcnt (d : Word) : after (.instr (.rdTcnt d)) s = busReturn s.tcnt (advance s) := rfl
@[simp] theorem after_rdIcr (d : Word) : after (.instr (.rdIcr d)) s = busReturn s.icr (advance s) := rfl
@[simp] theorem after_rdHtt (d : Word) : after (.instr (.rdHtt d)) s = busReturn s.htt (advance s) := rfl
@[simp] theorem after_rdDist (d : Word) : after (.instr (.rdDist d)) s = busReturn s.dist (advance s) := rfl
@[simp] theorem after_rdZero (a : RegAddr) (d : Word) : after (.instr (.rdZero a d)) s = busReturn 0#16 (advance s) := rfl

/-! The commands and the ignored writes. -/

@[simp] theorem after_nop : after (.instr .nop) s = advance s := rfl
@[simp] theorem after_icuInit (cs : BitVec 3) (e : Bool) :
    after (.instr (.icuInit cs e)) s = icuConfigure cs e (advance s) := rfl
@[simp] theorem after_icuSetCallback (b : Bool) :
    after (.instr (.icuSetCallback b)) s = { advance s with cb := b } := rfl
@[simp] theorem after_icuSetEdge (e : Bool) : after (.instr (.icuSetEdge e)) s = { advance s with edge := e } := rfl
@[simp] theorem after_icuClearCounter : after (.instr .icuClearCounter) s = { advance s with tcnt := 0#16 } := rfl
@[simp] theorem after_icuDeinit :
    after (.instr .icuDeinit) s =
      { advance s with cs := 0#3, edge := false, icie := false, tcnt := 0#16, icr := 0#16 } := rfl
@[simp] theorem after_usInit :
    after (.instr .usInit) s =
      { icuConfigure (csCode s.params.prescaler) true (advance s) with cb := true, trigOe := true, ec := 0#2 } := rfl
@[simp] theorem after_usReadDistance :
    after (.instr .usReadDistance) s =
      { triggerPulse (advance s) with
        ready := false, dist := if s.ready = true then distanceWord s.params s.htt else s.dist } :=
  eq_of_exec_usReadDistance (s := advance s) rfl
@[simp] theorem after_wrIgnoredLow (a : RegAddr) (d : Word) : after (.instr (.wrIgnoredLow a d)) s = advance s := rfl
@[simp] theorem after_wrIgnoredMid (a : RegAddr) (d : Word) : after (.instr (.wrIgnoredMid a d)) s = advance s := rfl
@[simp] theorem after_wrIgnoredSeven (d : Word) : after (.instr (.wrIgnoredSeven d)) s = advance s := rfl

end

/-- EC is legal after `SvcRun` wherever it was before: each branch of `EdgeProcess` leaves 0 or 1 (10_state.md R23). -/
theorem ecLegal_svcRun {s : State} (h : EcLegal s) : EcLegal (svcRun s) := by
  simp only [EcLegal, svcRun_ec]
  split_ifs
  · exact .inr rfl
  · exact .inl rfl
  · exact h

/-- Settles O35: `SvcRun` steps EC between 0 and 1; US_INIT and a reset zero it. -/
theorem ecAfterStep : Obligations.EcAfterStep := by
  unfold Obligations.EcAfterStep
  intro s t h
  rw [eq_after_of_step h]
  generalize nextAction s = a
  cases a with
  | instr i => cases i <;> simp [EcLegal]
  | svcRun => exact ⟨by simp [svcRun_ec], fun hec => ecLegal_svcRun (by simpa [EcLegal] using hec)⟩
  | _ => simp [EcLegal]

/-- Settles O38: the second-edge branch of `SvcRun` writes HTT and READY together; otherwise only a reset writes HTT. -/
theorem httAfterStep : Obligations.HttAfterStep := by
  unfold Obligations.HttAfterStep
  intro s t h
  rw [eq_after_of_step h]
  generalize nextAction s = a
  cases a with
  | instr i => cases i <;> simp
  | svcRun =>
    refine ⟨by simp [svcRun_htt], fun _ hne => ?_⟩
    rw [after_svcRun, svcRun_htt] at hne
    split_ifs at hne with hedge
    · simp_all [svcRun_ready]
    · simp at hne
  | _ => simp

/-- Settles O40: `SvcRun` writes EDGE alone among the fields of CTRL; the rest is the commands' and the reset's. -/
theorem ctrlFieldsAfterStep : Obligations.CtrlFieldsAfterStep := by
  unfold Obligations.CtrlFieldsAfterStep
  intro s t h
  rw [eq_after_of_step h]
  generalize nextAction s = a
  cases a with
  | instr i => cases i <;> simp
  | svcRun => simp [svcRun_edge]
  | _ => simp

/-- Settles O41: each read appends what it returns, US_READ_DISTANCE appends its pulse, and a reset empties both lists. -/
theorem historyAfterStep : Obligations.HistoryAfterStep := by
  unfold Obligations.HistoryAfterStep
  intro s t h
  rw [eq_after_of_step h]
  generalize nextAction s = a
  cases a with
  | instr i => cases i <;> simp
  | _ => simp

theorem svcEnterEnabled_of_nextAction_eq_svcEnter {s : State} (h : nextAction s = .svcEnter) :
    svcEnterEnabled s = true := by
  rcases nextAction_cases s with ha | ⟨-, -, item, rest, -, ha⟩ | ⟨-, -, ha⟩ | ⟨v, -, ha⟩ | ⟨-, hen, -⟩ |
    ⟨-, -, ha⟩ | ⟨e, p, -, ha⟩
  · simp [ha] at h
  · rcases itemAction_cases s.params item with ⟨i, hi⟩ | ⟨r, hi⟩ | ⟨v, hi⟩ | hi <;> simp [ha, hi] at h
  · simp [ha] at h
  · simp [ha] at h
  · exact hen
  · simp [ha] at h
  · simp [ha] at h

/-- Settles O42: `SvcEnter` and `SvcRun` move INSVC, an echo step ECHO and the host GIE; `SvcEnter` needs INSVC = 0. -/
theorem serviceFlagAndInputsAfterStep : Obligations.ServiceFlagAndInputsAfterStep := by
  unfold Obligations.ServiceFlagAndInputsAfterStep
  intro s t h
  have henter : nextAction s = .svcEnter → s.insvc = false := fun ha =>
    (svcEnterEnabled_eq_true.mp (svcEnterEnabled_of_nextAction_eq_svcEnter ha)).2.2.2
  rw [eq_after_of_step h]
  generalize nextAction s = a at henter ⊢
  cases a with
  | instr i => cases i <;> simp
  | svcEnter => simpa using henter rfl
  | _ => simp

/-- Settles O43: an instruction, a reserved command and a drive of GIE go through `advance`; a reset starts a new run. -/
theorem hostPositionAfterStep : Obligations.HostPositionAfterStep := by
  unfold Obligations.HostPositionAfterStep
  intro s t h
  rw [eq_after_of_step h]
  generalize nextAction s = a
  cases a with
  | instr i => cases i <;> simp
  | _ => simp

/-- Settles O44: no action's equation writes the parameters. -/
theorem parametersNeverChange : Obligations.ParametersNeverChange := by
  unfold Obligations.ParametersNeverChange
  intro s t h
  rw [eq_after_of_step h]
  generalize nextAction s = a
  cases a with
  | instr i => cases i <;> simp
  | _ => simp

end Sys2Proof.Machine
end

section
/-! PROOF. The invariants (10_state.md R23, R38), each kept by every step, and the service masked by ICIE = 0. The steps
are taken from the statements about each register after one step. -/

namespace Sys2Proof.Machine

open Sys2Proof

/-! The record of pulses. -/

theorem pulsesWide_iff {s : State} :
    PulsesWide s ↔ ∀ w oe, OutEvent.trigPulse w oe ∈ s.history → w = s.params.trigDelayUs ∧ 10 ≤ w :=
  ⟨fun h w oe he => h _ he, fun h e he => by cases e with | trigPulse w oe => exact h w oe he⟩

/-- A step leaves the output history, appends one pulse of the parameters' width, or (a reset) empties it. -/
theorem history_cases_of_step {s t : State} (h : step s = .next t) :
    t.history = s.history ∨ t.history = s.history ++ [.trigPulse s.params.trigDelayUs s.trigOe] ∨ t.history = [] := by
  have hh := (historyAfterStep s t h).1
  split at hh
  · exact .inr (.inl hh)
  · exact .inr (.inr hh)
  · exact .inl hh

theorem pulsesWide_of_step {s t : State} (hs : PulsesWide s) (h : step s = .next t) : PulsesWide t := by
  rw [pulsesWide_iff] at hs ⊢
  rw [parametersNeverChange s t h]
  intro w oe he
  rcases history_cases_of_step h with hh | hh | hh <;> rw [hh] at he
  · exact hs w oe he
  · rcases List.mem_append.mp he with he | he
    · exact hs w oe he
    · cases List.mem_singleton.mp he
      exact ⟨rfl, s.params.trigDelay_ge⟩
  · cases he

/-- Settles O45: EC by the statement about EC, the pulses by the statement about the output history. -/
theorem stepKeepsLegalState : Obligations.StepKeepsLegalState :=
  fun s t ⟨hec, hpulses⟩ h => ⟨(ecAfterStep s t h).2 hec, pulsesWide_of_step hpulses h⟩

/-- Settles O46: EC is 0 and no pulse is on record. -/
theorem resetIsLegal : Obligations.ResetIsLegal :=
  fun _ _ => ⟨.inl rfl, fun _ he => nomatch he⟩

/-! The driver's invariant: one step. -/

/-- US_INIT establishes the invariant whatever held before. -/
theorem driverInv_of_usInit {s t : State} (ha : nextAction s = .instr .usInit) (h : step s = .next t) :
    DriverInv t := by
  rw [eq_after_of_step h, ha]
  exact .inl ⟨rfl, rfl⟩

/-- `SvcRun` flips EC and EDGE together, or neither. -/
theorem driverInv_svcRun {s : State} (hinv : DriverInv s) : DriverInv (svcRun s) := by
  rcases svcRun_cases s with ⟨-, -, h⟩ | ⟨-, -, h⟩ | ⟨-, h⟩ <;> rw [h]
  · exact .inr ⟨rfl, rfl⟩
  · exact .inl ⟨rfl, rfl⟩
  · exact hinv

theorem driverInv_of_step {s t : State} (hinv : DriverInv s) (hkeep : keepsDriverInv (nextAction s) = true)
    (h : step s = .next t) : DriverInv t := by
  rw [eq_after_of_step h]
  have hinv' : DriverInv (takeTurn s) := by simpa [DriverInv] using hinv
  generalize nextAction s = a, takeTurn s = s' at hkeep hinv' ⊢
  cases a with
  | instr i =>
    cases i with
    | icuInit cs e => cases hkeep
    | icuSetEdge e => cases hkeep
    | icuDeinit => cases hkeep
    | usInit => exact .inl ⟨rfl, rfl⟩
    | _ => simpa [DriverInv] using hinv'
  | svcRun => exact driverInv_svcRun hinv'
  | reset e p => cases hkeep
  | _ => simpa [DriverInv] using hinv'

/-- A measurement that is ready after a step without a second edge was ready before it, with the same HTT. -/
theorem measurement_kept_of_step {s t : State} (hkeep : keepsDriverInv (nextAction s) = true) (h : step s = .next t)
    (hready : t.ready = true) (hno : nextAction s ≠ .svcRun ∨ s.cb = false ∨ s.ec = 0#2) :
    s.ready = true ∧ t.htt = s.htt := by
  have hr := readyAfterStep s t h
  have hh := (httAfterStep s t h).1
  rw [hready] at hr
  generalize nextAction s = a at *
  cases a with
  | instr i => cases i <;> simp_all
  | svcRun =>
    rcases hno with hne | hcb | hec
    · exact absurd rfl hne
    · simp_all
    · simp_all
  | reset e p => cases hkeep
  | _ => exact ⟨hr.symm, hh⟩

/-- The second-edge service reads ICR into HTT and sets READY. -/
theorem measurement_of_secondEdge_step {s t : State} (h : step s = .next t) (ha : nextAction s = .svcRun)
    (hcb : s.cb = true) (hec : s.ec = 1#2) : t.ready = true ∧ t.htt = s.icr := by
  rw [eq_after_of_step h, ha]
  simp [svcRun_ready, svcRun_htt, hcb, hec]

/-- Settles O47: `SvcRun` flips EC and EDGE together; the commands left over and the other agents write neither. -/
theorem driverInvariantKept : Obligations.DriverInvariantKept :=
  ⟨fun _ _ ha h => driverInv_of_usInit ha h, fun _ _ hinv hkeep h =>
    ⟨driverInv_of_step hinv hkeep h, measurement_kept_of_step hkeep h, measurement_of_secondEdge_step h⟩⟩

/-! The driver's invariant along a run. -/

/-- What a run of a host that keeps the invariant carries from step to step: the invariant, no reset among the turns to
come, and none of the three commands in what is left of the program. -/
def DriverRun (s : State) : Prop :=
  DriverInv s ∧ (∀ e p, Turn.reset e p ∉ s.turns) ∧
    ∀ item ∈ s.program, keepsDriverInv (itemAction s.params item) = true

theorem turns_of_step {s t : State} (h : step s = .next t) : t.turns = (takeTurn s).turns := by
  rw [eq_after_of_step h]
  generalize nextAction s = a
  cases a with
  | instr i => cases i <;> simp
  | _ => simp

/-- Within a run the program is kept or loses its head. -/
theorem program_cases_of_step {s t : State} (h : step s = .next t) (hreset : ∀ e p, nextAction s ≠ .reset e p) :
    t.program = s.program ∨ t.program = s.program.tail := by
  have hp := hostPositionAfterStep s t h
  split at hp <;> simp_all

theorem keepsDriverInv_nextAction {s : State} {x : Turn} {rest : List Turn} (hturns : s.turns = x :: rest)
    (hrun : DriverRun s) : keepsDriverInv (nextAction s) = true := by
  obtain ⟨-, hreset, hprog⟩ := hrun
  rcases nextAction_cases s with ha | ⟨-, -, item, items, hp, ha⟩ | ⟨-, -, ha⟩ | ⟨v, -, ha⟩ | ⟨-, -, ha⟩ |
    ⟨-, -, ha⟩ | ⟨e, p, hx, -⟩
  · rw [ha]; rfl
  · rw [ha]; exact hprog item (by simp [hp])
  · rw [ha]; rfl
  · rw [ha]; rfl
  · rw [ha]; rfl
  · rw [ha]; rfl
  · rw [nextTurn_of_cons hturns] at hx
    exact absurd (by simp [hturns, hx]) (hreset e p)

theorem driverRun_of_step {s t : State} {x : Turn} {rest : List Turn} (hturns : s.turns = x :: rest)
    (hrun : DriverRun s) (h : step s = .next t) : DriverRun t ∧ t.turns = rest := by
  have hkeep := keepsDriverInv_nextAction hturns hrun
  obtain ⟨hinv, hreset, hprog⟩ := hrun
  have ht : t.turns = rest := by rw [turns_of_step h, takeTurn_of_cons hturns]
  refine ⟨⟨driverInv_of_step hinv hkeep h, fun e p hmem => hreset e p ?_, fun item hmem => ?_⟩, ht⟩
  · rw [hturns, ← ht]
    exact List.mem_cons_of_mem _ hmem
  · rw [parametersNeverChange s t h]
    have hno : ∀ e p, nextAction s ≠ .reset e p := fun e p ha => by simp [ha, keepsDriverInv] at hkeep
    rcases program_cases_of_step h hno with hp | hp <;> rw [hp] at hmem
    · exact hprog item hmem
    · exact hprog item (List.mem_of_mem_tail hmem)

theorem driverRun_of_runFor {k : Nat} {s t : State} (hk : k ≤ s.turns.length) (hrun : DriverRun s)
    (h : runFor k s = .next t) : DriverRun t := by
  induction k generalizing s with
  | zero => cases h; exact hrun
  | succ k ih =>
    obtain ⟨u, hstep, hu⟩ := runFor_succ_inv h
    obtain ⟨x, rest, hturns⟩ := List.exists_cons_of_length_pos (Nat.lt_of_lt_of_le k.succ_pos hk)
    obtain ⟨hrun', hrest⟩ := driverRun_of_step hturns hrun hstep
    refine ih ?_ hrun' hu
    rw [hturns, List.length_cons] at hk
    rw [hrest]
    exact Nat.le_of_succ_le_succ hk

/-- Settles O48, by induction on the number of steps. -/
theorem driverInvariantForEver : Obligations.DriverInvariantForEver :=
  fun _ _ _ hinv hk hreset hprog h => (driverRun_of_runFor hk ⟨hinv, hreset, hprog⟩ h).1

/-- Settles O57: of the writers of ICIE only a clearing one is left, and `SvcEnter` needs ICIE = 1. -/
theorem maskedCaptureNeverServiced : Obligations.MaskedCaptureNeverServiced := by
  unfold Obligations.MaskedCaptureNeverServiced
  intro s t hicie h hinit husInit
  obtain ⟨-, -, hie, -⟩ := ctrlFieldsAfterStep s t h
  obtain ⟨hsvc, -⟩ := serviceFlagAndInputsAfterStep s t h
  have henter : nextAction s ≠ .svcEnter := fun ha => by
    simpa [svcEnterEnabled, hicie] using svcEnterEnabled_of_nextAction_eq_svcEnter ha
  constructor
  · split at hie <;> simp_all
  · split at hsvc <;> simp_all

end Sys2Proof.Machine
end

section
/-! PROOF. The step as a whole (20_memory.md R53, R54, R56, 60_exceptions.md R108, R116) and the machine right after a
reset (70_reset_and_hazards.md R125, R126). -/

namespace Sys2Proof.Machine

open Sys2Proof

/-! The host's step for a transaction word. -/

theorem step_of_host_instr {s : State} {w : TxWord} {i : Instr} {rest : List HostItem} (hturn : nextTurn s = .host)
    (hsvc : s.insvc = false) (hprog : s.program = .trans w :: rest) (hw : decode w = .instr i) :
    step s = exec i { takeTurn s with program := rest, index := s.index + 1 } := by
  have ha : nextAction s = .instr i := by rw [nextAction_of_host_trans hturn hsvc hprog, txAction, hw]
  simp [step, ha, perform, advance, hprog]

theorem exec_decodeRead (a : RegAddr) (d : Word) (s : State) :
    ∃ v, exec (decodeRead a d) s = .next (busReturn v s) := by
  unfold decodeRead
  split_ifs <;> exact ⟨_, rfl⟩

theorem decode_of_read {w : TxWord} (hw : txW w = 0#1) : decode w = .instr (decodeRead (txA w) (txD w)) := by
  rw [← decode_mkTx_read, ← hw, mkTx_fields]

theorem decode_of_ignoredWrite {w : TxWord} (hw : txW w = 1#1) (ha : txA w ≠ 6#3) :
    decode w = .instr (decodeIgnoredWrite (txA w) (txD w)) := by
  rw [← decode_mkTx_write _ _ ha, ← hw, mkTx_fields]

/-- Settles O52: the host's turn, its next item and the decoder's answer give the action. -/
theorem stepRunsDecodedInstruction : Obligations.StepRunsDecodedInstruction :=
  fun _ _ _ _ => step_of_host_instr

/-- Settles O11: a word that is no command is a read, which returns a value, or an ignored write, which does nothing. -/
theorem onlyCommandsChangeState : Obligations.OnlyCommandsChangeState := by
  unfold Obligations.OnlyCommandsChangeState
  intro s w rest hturn hsvc hprog hcmd
  rcases (txW w).eq_zero_or_eq_one with hw | hw
  · obtain ⟨v, hv⟩ := exec_decodeRead (txA w) (txD w) { takeTurn s with program := rest, index := s.index + 1 }
    refine ⟨_, (step_of_host_instr hturn hsvc hprog (decode_of_read hw)).trans hv, ?_, .inr ⟨hw, v, ?_⟩⟩
    · simp [busReturn]
    · simp
  · have hdec := decode_of_ignoredWrite hw fun ha => hcmd ⟨hw, ha⟩
    refine ⟨_, (step_of_host_instr hturn hsvc hprog hdec).trans (exec_decodeIgnoredWrite _ _ _), ?_, .inl ⟨hw, ?_⟩⟩
    · simp
    · simp

/-! Completion: every instruction, and every step but one. -/

theorem exec_completes (i : Instr) (s : State) : ∃ t, exec i s = .next t := by
  cases i <;> exact ⟨_, rfl⟩

theorem eq_mapped_of_itemAction_eq_partialAccess {p : Params} {item : HostItem}
    (h : itemAction p item = .partialAccess) : ∃ m, item = .mapped m ∧ mappedTx p.dmctBase m = none := by
  have htx : ∀ w, txAction w ≠ .partialAccess := fun w hw => by
    rcases txAction_cases w with ⟨i, -, hi⟩ | ⟨r, -, hr⟩ <;> simp_all
  cases item with
  | trans w => exact absurd h (htx w)
  | sei => cases h
  | cli => cases h
  | mapped m =>
    refine ⟨m, rfl, ?_⟩
    cases hm : mappedTx p.dmctBase m with
    | none => rfl
    | some w => simp [itemAction, hm, htx] at h

/-- The one action that is refused is the host's, for a mapped access that is no register's. -/
theorem mapped_of_nextAction_eq_partialAccess {s : State} (h : nextAction s = .partialAccess) :
    nextTurn s = .host ∧ s.insvc = false ∧
      ∃ m rest, s.program = .mapped m :: rest ∧ mappedTx s.params.dmctBase m = none := by
  rcases nextAction_cases s with ha | ⟨hturn, hsvc, item, rest, hp, ha⟩ | ⟨-, -, ha⟩ | ⟨v, -, ha⟩ | ⟨-, -, ha⟩ |
    ⟨-, -, ha⟩ | ⟨e, p, -, ha⟩
  · simp [ha] at h
  · obtain ⟨m, rfl, hm⟩ := eq_mapped_of_itemAction_eq_partialAccess (ha.symm.trans h)
    exact ⟨hturn, hsvc, m, rest, hp, hm⟩
  all_goals simp [ha] at h

theorem step_completes_or_partialAccess (s : State) : (∃ t, step s = .next t) ∨ nextAction s = .partialAccess := by
  rw [step]
  cases nextAction s with
  | instr i => exact .inl (exec_completes i _)
  | partialAccess => exact .inr rfl
  | _ => exact .inl ⟨_, rfl⟩

/-- The converse of `eq_after_of_step`. -/
theorem step_eq_after {s : State} (h : nextAction s ≠ .partialAccess) :
    step s = .next (after (nextAction s) (takeTurn s)) := by
  obtain ⟨t, ht⟩ := (step_completes_or_partialAccess s).resolve_right h
  exact ht.trans (congrArg _ (eq_after_of_step ht))

/-- Settles O53: each arm of `exec` and of `perform` but the refused one answers a next state. -/
theorem everyStepCompletes : Obligations.EveryStepCompletes := by
  unfold Obligations.EveryStepCompletes
  refine ⟨exec_completes, fun s => (step_completes_or_partialAccess s).imp_right fun ha => ⟨?_, ?_⟩⟩
  · rw [step, ha]; rfl
  · exact mapped_of_nextAction_eq_partialAccess ha

/-! The byte-addressed mapping. -/

theorem registerAt_register (base : Nat) (a : RegAddr) : registerAt base (base + 2 * a.toNat) = some a := by
  have ha : a.toNat < 8 := a.isLt
  rw [registerAt, if_pos (by omega), Nat.add_sub_cancel_left, Nat.mul_div_cancel_left _ (by decide)]
  simp

theorem eq_of_registerAt_eq_some {base addr : Nat} {a : RegAddr} (h : registerAt base addr = some a) :
    addr = base + 2 * a.toNat := by
  unfold registerAt at h
  split_ifs at h with hin
  cases h
  rw [BitVec.toNat_ofNat]
  omega

theorem highByte_append_lowByte (v : Word) : (highByte v ++ lowByte v : Word) = v :=
  (BitVec.extractLsb'_append_extractLsb'_eq_extractLsb' rfl).trans (by simp)

theorem register_of_mappedTx_load {base addr len : Nat} {w : TxWord} (h : mappedTx base (.load addr len) = some w) :
    len = 2 ∧ ∃ a : RegAddr, addr = base + 2 * a.toNat := by
  simp only [mappedTx] at h
  split_ifs at h with hlen
  obtain ⟨a, ha, -⟩ := Option.map_eq_some_iff.mp h
  exact ⟨hlen, a, eq_of_registerAt_eq_some ha⟩

theorem register_of_mappedTx_store {base addr : Nat} {bytes : List Byte} {w : TxWord}
    (h : mappedTx base (.store addr bytes) = some w) :
    bytes.length = 2 ∧ ∃ a : RegAddr, addr = base + 2 * a.toNat := by
  simp only [mappedTx] at h
  split at h
  · obtain ⟨a, ha, -⟩ := Option.map_eq_some_iff.mp h
    exact ⟨rfl, a, eq_of_registerAt_eq_some ha⟩
  · cases h

theorem nextAction_of_host_item {s : State} {item : HostItem} {rest : List HostItem} (hturn : nextTurn s = .host)
    (hsvc : s.insvc = false) (hprog : s.program = item :: rest) : nextAction s = itemAction s.params item := by
  simp [nextAction, hturn, hostAction, hsvc, hprog]

/-- What the host issues next matters to a step only through its action: `advance` drops it. -/
theorem advance_takeTurn_replace_head {s : State} {item item' : HostItem} {rest : List HostItem}
    (hprog : s.program = item :: rest) :
    advance (takeTurn { s with program := item' :: rest }) = advance (takeTurn s) := by
  cases hturns : s.turns <;> simp [takeTurn, advance, hturns, hprog]

theorem step_of_host_mapped {s : State} {m : MappedAccess} {w : TxWord} {rest : List HostItem}
    (hturn : nextTurn s = .host) (hsvc : s.insvc = false) (hprog : s.program = .mapped m :: rest)
    (hm : mappedTx s.params.dmctBase m = some w) : step s = step { s with program := .trans w :: rest } := by
  have hmapped : nextAction s = txAction w := by
    rw [nextAction_of_host_item hturn hsvc hprog, itemAction, hm]
  have htrans : nextAction { s with program := .trans w :: rest } = txAction w :=
    nextAction_of_host_trans hturn hsvc rfl
  rw [step, step, hmapped, htrans]
  rcases txAction_cases w with ⟨i, -, ha⟩ | ⟨r, -, ha⟩ <;>
    simp only [ha, perform, advance_takeTurn_replace_head hprog]

/-- Settles O54: an address is a register's exactly where it is an even offset of the window. -/
theorem mappedAccessesCoverOneRegister : Obligations.MappedAccessesCoverOneRegister := by
  unfold Obligations.MappedAccessesCoverOneRegister
  refine ⟨fun base a => ?_, fun base a v => ?_, fun base addr len w => register_of_mappedTx_load,
    fun base addr bytes w => register_of_mappedTx_store, fun s m rest hturn hsvc hprog hm => ?_,
    fun s m w rest => step_of_host_mapped⟩
  · simp [mappedTx, registerAt_register]
  · simp [mappedTx, registerAt_register, highByte_append_lowByte]
  · rw [step, nextAction_of_host_item hturn hsvc hprog, itemAction, hm]
    rfl

theorem insvc_of_svcRun_step {s t : State} (hturn : nextTurn s = .svcRun) (hsvc : s.insvc = true)
    (h : step s = .next t) : t.insvc = false := by
  rw [step_of_svcRun hturn hsvc] at h
  cases h
  exact svcRun_insvc _

/-- Settles O56: were the service never to end, `SvcRun` would stay enabled, so fairness schedules it, and it ends it. -/
theorem fairServiceLiftsHold : Obligations.FairServiceLiftsHold := by
  unfold Obligations.FairServiceLiftsHold
  intro sched σ n hrun ⟨_, hfair⟩ hn
  by_contra! hheld
  have hsvc : ∀ m, n ≤ m → (σ m).insvc = true := fun m hm => by
    rcases hm.eq_or_lt with rfl | hlt
    · exact hn
    · simpa using hheld m hlt
  obtain ⟨m, hm, hturn⟩ := hfair n hsvc
  have hturn' : nextTurn { σ m with turns := [sched m] } = .svcRun := hturn
  exact hheld (m + 1) (Nat.lt_succ_of_le hm) (insvc_of_svcRun_step hturn' (hsvc m hm) (hrun m))

/-! Reset. -/

/-- Settles O51: the reset's turn is its action, on the state in which the turn is used up. -/
theorem resetDuringRun : Obligations.ResetDuringRun := by
  unfold Obligations.ResetDuringRun
  intro s echo program hturn
  simp [step, nextAction, hturn, perform, resetStep]

/-- Settles O50: CS, ICF and TCNT are 0 and EDGE is falling, which decides every clause. -/
theorem freshResetBehaviour : Obligations.FreshResetBehaviour := by
  unfold Obligations.FreshResetBehaviour
  intro p echo turns s
  have hdis : ¬ svcEnterEnabled s = true := Bool.false_ne_true
  refine ⟨fun hturn => step_of_tick_stopped hturn rfl, fun hturn => step_of_svcEnter_disabled hturn hdis,
    fun hecho hturn => ?_, ⟨_, rfl, rfl⟩, ?_⟩
  · have hedge : (takeTurn s).edge = false := takeTurn_edge s
    rw [step_of_echoSet hturn, echoSet_of_edge (by simp [s, State.resetWith, hecho]) hedge]
    simp [s, State.resetWith]
  · simp [DriverInv, s, State.resetWith]

end Sys2Proof.Machine
end

section
/-! PROOF. Measurements (40_icu.md R97, R98, 41_ultrasonic.md R103 to R106, 60_exceptions.md R112, R113): the converter's
order, what an edge and its service leave, and a whole measurement. -/

namespace Sys2Proof.Machine

open Sys2Proof

/-! The converter: order, and the prescaler it uses. -/

theorem rawCm_mono (p : Params) : Monotone (rawCm p) := fun h k hhk => by
  have hprod : p.soundSpeed * h * p.prescaler.toNat ≤ p.soundSpeed * k * p.prescaler.toNat := by gcongr
  exact rawCm_le_iff.mpr (hprod.trans (rawCm_le_iff.mp le_rfl))

theorem bias_mono : Monotone bias := fun r q hrq => by
  unfold bias
  split_ifs <;> omega

/-- Settles O23: the raw value and the table's bias both grow with the pulse. -/
theorem correctedDistanceMonotone : Obligations.CorrectedDistanceMonotone :=
  fun p _ _ hhk => Nat.add_le_add (rawCm_mono p hhk) (bias_mono (rawCm_mono p hhk))

theorem divisor_csCode (p : Prescaler) : (clockSource (csCode p)).divisor = some p.toNat := by
  cases p <;> rfl

/-- Settles O24: ICU_INIT leaves READY, HTT and the parameters, of which alone the converter reads. -/
theorem converterUsesBuildPrescaler : Obligations.ConverterUsesBuildPrescaler := by
  unfold Obligations.ConverterUsesBuildPrescaler
  refine ⟨fun s t h => ?_, fun s t u v cs e ht hu hv => ?_⟩
  · cases h
    exact ⟨rfl, divisor_csCode _⟩
  · cases hu
    rw [eq_of_exec_usReadDistance ht, eq_of_exec_usReadDistance hv]
    rfl

/-! Captures. -/

/-- Settles O27: ICR and ICF after an echo step are functions of the five fields alone. -/
theorem captureIgnoresMasks : Obligations.CaptureIgnoresMasks := by
  unfold Obligations.CaptureIgnoresMasks
  intro s t s' t' v hs ht hecho hedge htcnt hicr hicf hs' ht'
  rw [step_of_echoSet hs] at hs'
  rw [step_of_echoSet ht] at ht'
  cases hs'
  cases ht'
  simp [echoSet_icr, echoSet_icf, hecho, hedge, htcnt, hicr, hicf]

/-- A run and one step more. -/
theorem runFor_snoc {s t u : State} {j : Nat} (h : runFor j s = .next t) (hstep : step t = .next u) :
    runFor (j + 1) s = .next u :=
  (runFor_add h 1).trans (runFor_succ hstep 0)

theorem step_of_capture {s : State} {v : Bool} {rest : List Turn} (hturns : s.turns = .echoSet v :: rest)
    (hne : s.echo ≠ v) (hedge : s.edge = v) :
    step s = .next { s with echo := v, icr := s.tcnt, icf := true, turns := rest } := by
  rw [step_of_echoSet (nextTurn_of_cons hturns), takeTurn_of_cons hturns]
  exact congrArg _ (echoSet_of_edge hne hedge)

/-- The driver hears an edge: its callback is installed, the interrupt is unmasked, and no service is in progress. -/
def Listening (s : State) : Prop := s.cb = true ∧ s.icie = true ∧ s.gie = true ∧ s.insvc = false

/-- An edge that matches EDGE, then its service: the callback runs on the captured count. -/
theorem runFor_capture_and_service {s : State} {v : Bool} {rest : List Turn}
    (hturns : s.turns = .echoSet v :: .svcEnter :: .svcRun :: rest) (hne : s.echo ≠ v) (hedge : s.edge = v)
    (hl : Listening s) :
    runFor 3 s =
      .next (svcRun { s with echo := v, icr := s.tcnt, icf := false, insvc := true, turns := rest }) := by
  obtain ⟨-, hicie, hgie, hsvc⟩ := hl
  refine (runFor_succ (step_of_capture hturns hne hedge) 2).trans
    ((runFor_succ (step_of_svcEnter ?_ ?_) 1).trans (runFor_succ (step_of_svcRun ?_ ?_) 0))
  · rfl
  · exact svcEnterEnabled_eq_true.mpr ⟨rfl, hicie, hgie, hsvc⟩
  · rfl
  · rfl

theorem runFor_firstEdge {s : State} {v : Bool} {rest : List Turn}
    (hturns : s.turns = .echoSet v :: .svcEnter :: .svcRun :: rest) (hne : s.echo ≠ v) (hedge : s.edge = v)
    (hl : Listening s) (hec : s.ec = 0#2) :
    runFor 3 s = .next { s with
      echo := v, icr := s.tcnt, icf := false, insvc := false, turns := rest,
      ec := 1#2, tcnt := 0#16, edge := false } := by
  refine (runFor_capture_and_service hturns hne hedge hl).trans (congrArg _ (svcRun_of_firstEdge ?_ ?_))
  · exact hl.1
  · exact hec

theorem runFor_secondEdge {s : State} {v : Bool} {rest : List Turn}
    (hturns : s.turns = .echoSet v :: .svcEnter :: .svcRun :: rest) (hne : s.echo ≠ v) (hedge : s.edge = v)
    (hl : Listening s) (hec : s.ec = 1#2) :
    runFor 3 s = .next { s with
      echo := v, icr := s.tcnt, icf := false, insvc := false, turns := rest,
      htt := s.tcnt, ec := 0#2, edge := true, ready := true } := by
  refine (runFor_capture_and_service hturns hne hedge hl).trans (congrArg _ (svcRun_of_secondEdge ?_ ?_))
  · exact hl.1
  · exact hec

/-- A second edge while a service is in progress: the service that runs next reads the new capture, which stays
pending. -/
theorem runFor_secondEdge_in_service {s : State} {v : Bool} {rest : List Turn}
    (hturns : s.turns = .echoSet v :: .svcRun :: rest) (hne : s.echo ≠ v) (hedge : s.edge = v) (hsvc : s.insvc = true)
    (hcb : s.cb = true) (hec : s.ec = 1#2) :
    runFor 2 s = .next { s with
      echo := v, icr := s.tcnt, icf := true, insvc := false, turns := rest,
      htt := s.tcnt, ec := 0#2, edge := true, ready := true } := by
  refine (runFor_succ (step_of_capture hturns hne hedge) 1).trans
    ((runFor_succ (step_of_svcRun ?_ ?_) 0).trans (congrArg _ (svcRun_of_secondEdge ?_ ?_)))
  · rfl
  · exact hsvc
  · exact hcb
  · exact hec

/-- Settles O28: the capture overwrites ICR whatever ICF was, and one service reads it; a capture during a service sets
ICF again, so the next `SvcEnter` fires. -/
theorem lostCaptureReadsNewerCount : Obligations.LostCaptureReadsNewerCount := by
  unfold Obligations.LostCaptureReadsNewerCount
  refine ⟨fun s rest hturns _ hecho hedge hicie hgie hsvc hcb hec => ?_,
    fun s rest hturns hsvc hecho hedge hicie hgie hcb hec => ?_⟩
  · have hne : s.echo ≠ false := by simp [hecho]
    have hrun := runFor_secondEdge hturns hne hedge ⟨hcb, hicie, hgie, hsvc⟩ hec
    refine ⟨_, _, step_of_capture hturns hne hedge, rfl, rfl,
      runFor_snoc hrun (step_of_svcEnter_disabled ?_ ?_), rfl, rfl, rfl⟩
    · rfl
    · exact Bool.false_ne_true
  · have hrun := runFor_secondEdge_in_service hturns (by simp [hecho]) hedge hsvc hcb hec
    refine ⟨_, _, hrun, rfl, rfl, rfl, runFor_snoc hrun (step_of_svcEnter ?_ ?_), rfl, rfl⟩
    · rfl
    · exact svcEnterEnabled_eq_true.mpr ⟨rfl, hicie, hgie, rfl⟩

/-- `n` ticks of a clocked timer, whatever comes after them. -/
theorem runFor_ticks (n : Nat) {s : State} {rest : List Turn} (hturns : s.turns = List.replicate n .tick ++ rest)
    (hcs : s.cs ≠ 0#3) : runFor n s = .next { s with tcnt := s.tcnt + BitVec.ofNat 16 n, turns := rest } := by
  induction n generalizing s with
  | zero =>
    obtain rfl : s.turns = rest := hturns
    simp
  | succ n ih =>
    rw [List.replicate_succ, List.cons_append] at hturns
    have hstep := step_of_tick (nextTurn_of_cons hturns) hcs
    rw [takeTurn_of_cons hturns] at hstep
    rw [runFor_succ hstep, ih ?_ ?_]
    · simp only [BitVec.add_assoc, ← BitVec.ofNat_add, Nat.add_comm 1]
    · rfl
    · exact hcs

/-- From the first edge's service on: `n` ticks and the falling edge with its service measure `n`. -/
theorem runFor_ticks_and_secondEdge (n : Nat) {s : State} {rest : List Turn}
    (hturns : s.turns = List.replicate n .tick ++ .echoSet false :: .svcEnter :: .svcRun :: rest) (hcs : s.cs ≠ 0#3)
    (hecho : s.echo = true) (hedge : s.edge = false) (hl : Listening s) (hec : s.ec = 1#2) (htcnt : s.tcnt = 0#16) :
    runFor (n + 3) s = .next { s with
      echo := false, icr := BitVec.ofNat 16 n, icf := false, insvc := false, turns := rest,
      htt := BitVec.ofNat 16 n, tcnt := BitVec.ofNat 16 n, ec := 0#2, edge := true, ready := true } := by
  have hticks := runFor_ticks n hturns hcs
  rw [htcnt, BitVec.zero_add] at hticks
  refine (runFor_add hticks 3).trans (runFor_secondEdge (rest := rest) ?_ ?_ ?_ ?_ ?_)
  · rfl
  · simp [hecho]
  · exact hedge
  · exact hl
  · exact hec

/-- Settles O58: the first edge's service zeroes the count, `n` ticks bring it to `n` modulo 2^16, and the second edge's
service reads it. -/
theorem measurementYieldsEchoWidth : Obligations.MeasurementYieldsEchoWidth := by
  unfold Obligations.MeasurementYieldsEchoWidth
  intro s n rest hturns hec hedge hcb hicie hgie hsvc hecho hcs
  have hturns' : s.turns = .echoSet true :: .svcEnter :: .svcRun ::
      (List.replicate n .tick ++ .echoSet false :: .svcEnter :: .svcRun :: rest) := by simp [hturns]
  have hl : Listening s := ⟨hcb, hicie, hgie, hsvc⟩
  have hrun := runFor_add (runFor_firstEdge hturns' (by simp [hecho]) hedge hl hec) (n + 3)
  rw [runFor_ticks_and_secondEdge n (rest := rest) ?_ ?_ ?_ ?_ ?_ ?_ ?_] at hrun
  · refine ⟨_, _, (congrArg (runFor · s) (by omega)).trans hrun, ?_, rfl, rfl, ?_⟩
    · simp [hec, hedge, hsvc, hecho]
    · exact (toNat_distanceWord s.params (BitVec.ofNat 16 n)).trans (by rw [BitVec.toNat_ofNat])
  · rfl
  · exact hcs
  · rfl
  · rfl
  · exact ⟨hcb, hicie, hgie, rfl⟩
  · rfl
  · rfl

/-! `us.read_distance` (30_encoding.md R76): between its two transactions only agents other than the host move. -/

/-- What the second transaction rests on: DIST, the read data so far and the rest of the program. -/
def distView (s : State) : Word × List Word × List HostItem := (s.dist, s.reads, s.program)

theorem environment_action_cases {s : State} (hhost : nextTurn s ≠ .host) (hreset : ∀ e p, nextTurn s ≠ .reset e p) :
    nextAction s = .wait ∨ nextAction s = .tick ∨ (∃ v, nextAction s = .echoSet v) ∨ nextAction s = .svcEnter ∨
    nextAction s = .svcRun := by
  rcases nextAction_cases s with ha | ⟨hturn, -⟩ | ⟨-, -, ha⟩ | ⟨v, -, ha⟩ | ⟨-, -, ha⟩ | ⟨-, -, ha⟩ |
    ⟨e, p, hturn, -⟩
  · exact .inl ha
  · exact absurd hturn hhost
  · exact .inr (.inl ha)
  · exact .inr (.inr (.inl ⟨v, ha⟩))
  · exact .inr (.inr (.inr (.inl ha)))
  · exact .inr (.inr (.inr (.inr ha)))
  · exact absurd hturn (hreset e p)

/-- A turn of an agent other than the host completes and leaves what the host's read rests on. -/
theorem environment_step {s : State} (hhost : nextTurn s ≠ .host) (hreset : ∀ e p, nextTurn s ≠ .reset e p) :
    ∃ t, step s = .next t ∧ t.turns = (takeTurn s).turns ∧ distView t = distView s := by
  rcases environment_action_cases hhost hreset with ha | ha | ⟨v, ha⟩ | ha | ha <;>
    exact ⟨_, step_eq_after (by simp [ha]), by simp [ha], by simp [ha, distView]⟩

theorem environment_run {between tail : List Turn} {s : State} (hturns : s.turns = between ++ tail)
    (henv : ∀ x ∈ between, x ≠ .host ∧ ∀ e p, x ≠ .reset e p) :
    ∃ t, runFor between.length s = .next t ∧ t.turns = tail ∧ distView t = distView s := by
  induction between generalizing s with
  | nil => exact ⟨s, rfl, hturns, rfl⟩
  | cons x between ih =>
    obtain ⟨⟨hhost, hreset⟩, henv'⟩ := List.forall_mem_cons.mp henv
    rw [List.cons_append] at hturns
    rw [← nextTurn_of_cons hturns] at hhost hreset
    obtain ⟨u, hstep, hu, hview⟩ := environment_step hhost hreset
    rw [takeTurn_of_cons hturns] at hu
    obtain ⟨t, hrun, ht, hview'⟩ := ih hu henv'
    exact ⟨t, (runFor_succ hstep _).trans hrun, ht, hview'.trans hview⟩

/-- Settles O59: the turns between the two transactions leave DIST, the read data and the program, by induction. -/
theorem readDistanceReturnsItsOwnValue : Obligations.ReadDistanceReturnsItsOwnValue := by
  unfold Obligations.ReadDistanceReturnsItsOwnValue
  intro s u between rest program hturns hsvc hprog henv hu
  have hread := step_of_host_instr (i := .usReadDistance) (nextTurn_of_cons hturns) hsvc hprog (by decide)
  rw [takeTurn_of_cons hturns] at hread
  obtain ⟨r, hr⟩ := exec_completes .usReadDistance _
  rw [hr] at hread
  have hrturns : r.turns = between ++ .host :: rest := by rw [eq_of_exec_usReadDistance hr]; rfl
  have hrview : distView r = (u.dist, s.reads, .trans (mkTx 0#1 5#3 0#16) :: program) := by
    rw [eq_of_exec_usReadDistance hr, eq_of_exec_usReadDistance hu]
    rfl
  obtain ⟨t, hrun, ht, hview⟩ := environment_run hrturns henv
  rw [hrview] at hview
  simp only [distView, Prod.mk.injEq] at hview
  obtain ⟨hdist, hreads, hprogram⟩ := hview
  refine ⟨t, (runFor_succ hread _).trans hrun, hdist, fun hsvc' => ?_⟩
  have hrd := step_of_host_instr (nextTurn_of_cons ht) hsvc' hprogram (decode_mkTx_read 5#3 0#16)
  refine ⟨_, hrd, ?_, rfl⟩
  simp [hreads, hdist]

/-! The polarity of EDGE. -/

/-- Settles O60, by induction on the callbacks: each flips EC, and EDGE with it. -/
theorem edgePolarityAlternates : Obligations.EdgePolarityAlternates := by
  unfold Obligations.EdgePolarityAlternates
  intro k s hec hedge
  induction k with
  | zero => simp [hec, hedge]
  | succ k ih =>
    rw [Function.iterate_succ_apply']
    obtain ⟨hec', -⟩ := ih
    generalize edgeProcess^[k] s = u at hec' ⊢
    rcases Nat.mod_two_eq_zero_or_one k with hk | hk
    · have hu : u.ec = 0#2 := BitVec.eq_of_toNat_eq (hec'.trans hk)
      simp [edgeProcess, hu, Nat.add_mod, hk]
    · have hu : u.ec = 1#2 := BitVec.eq_of_toNat_eq (hec'.trans hk)
      simp [edgeProcess, hu, Nat.add_mod, hk]

end Sys2Proof.Machine
end
